-- ==== Sys2Proof/Word.lean ====
section
/-! DEFINITION. Bits, Bit Sequences, the APB operation, and the call word: the form in which a host call is encoded (R12, R13, R90, R97). -/

namespace Sys2Proof

/-- A Bit is "a single binary value (0 or 1)" (R121): `true` is 1. -/
abbrev Bit := Bool

/-- A Bit Sequence, index 0 least significant, in time order (R12). -/
abbrev BitSeq := List Bit

/-- The operation of a request frame, "one of None, Read, Write" (R97, R200). -/
inductive ApbOp where
  | none
  | read
  | write
  deriving DecidableEq, Repr

/-- The operation code: None 0, Read 1, Write 2 (R200). -/
def ApbOp.code : ApbOp → Nat
  | .none => 0
  | .read => 1
  | .write => 2

/-- The column "format" of the opcode table: the kinds of encoding an operation can have (R90, R92, R99). -/
inductive Format where
  | tmsSequence
  | scan
  | function
  | apbFrame50
  | ir5
  deriving DecidableEq, Repr

/-- One encoded host call. The block has no instruction words and moves no bytes (R64, R78), so a call word holds
what the opcode table gives each format: (TMS, TDI) per edge for a navigator operation (R90, R91), the number of
held edges for `wait`, the bits for a scan, the arguments for a function, the 50-bit value for a frame (R95), the
5-bit value for an IR opcode (R92). DESIGN CHOICE, log entry 1. -/
inductive CallWord where
  | tmsSequence (edges : List (Bit × Bit))
  | heldEdges (n : Nat)
  | irScan (bits : BitSeq)
  | drScan (bits : BitSeq)
  | bitsOf (value : Nat) (width : Int)
  | valueOf (bits : BitSeq)
  | encode (address data operation : Nat)
  | decode (raw : Nat)
  | frame (raw : Nat)
  | irOpcode (opcode : BitVec 5)
  deriving DecidableEq, Repr

/-- The opcode table's format of a call word. -/
def CallWord.format : CallWord → Format
  | .tmsSequence _ => .tmsSequence
  | .heldEdges _ => .tmsSequence
  | .irScan _ => .scan
  | .drScan _ => .scan
  | .bitsOf _ _ => .function
  | .valueOf _ => .function
  | .encode _ _ _ => .function
  | .decode _ => .function
  | .frame _ => .apbFrame50
  | .irOpcode _ => .ir5

end Sys2Proof
end

