-- ==== Sys2Proof/Config.lean ====
section
/-! DEFINITION. The parameters of the block (R8), the open parameters (R9, R72), the host parameters no rule reads (R10), and the free values of the target (R37, R70, R71). -/

namespace Sys2Proof.Config

/-! Fixed parameters (R8). -/

abbrev apbDrLen : Nat := 50
abbrev addrW : Nat := 16
abbrev dataW : Nat := 32
abbrev opW : Nat := 2
abbrev irLen : Nat := 5
abbrev idcodeLen : Nat := 32
abbrev ctrlDrLen : Nat := 32
abbrev resetEdges : Nat := 5
abbrev numTapStates : Nat := 16

/-! Open parameters (R9, D25, D38): nothing in Lean can evaluate them. -/

/-- `OPC_IDCODE`, the target's default after Test-Logic-Reset (R9, R92). -/
opaque opcIdcode : BitVec 5

/-- Where `OPC_APB_CONTROL` lies above `OPC_IDCODE`, less one: any of the 31 other opcodes. -/
opaque controlGap : Fin 31

/-- Which of the 30 remaining opcodes `OPC_APB_ACCESS` is. -/
opaque accessGap : Fin 30

/-- The distance of `OPC_APB_ACCESS` from `OPC_IDCODE` when the control opcode lies `c + 1` above it: the `a`-th
nonzero distance other than `c + 1`. -/
def accessOffset (c : Fin 31) (a : Fin 30) : Nat :=
  if a.val < c.val then a.val + 1 else a.val + 2

/-- `OPC_APB_CONTROL` (R9, R92); different from the other two opcodes by its construction (D25). Log entry 5. -/
def opcApbControl : BitVec 5 := opcIdcode + BitVec.ofNat 5 (controlGap.val + 1)

/-- `OPC_APB_ACCESS` (R9, R92); different from the other two opcodes by its construction (D25). Log entry 5. -/
def opcApbAccess : BitVec 5 := opcIdcode + BitVec.ofNat 5 (accessOffset controlGap accessGap)

/-- Bits 31 to 1 of each device's IDCODE, in shift order; bit 0 is fixed to 1 (R47). Log entry 6. -/
opaque chain : List (BitVec 31)

/-- The IDCODEs of the devices on the chain, in shift order (R47). -/
def idcodes : List (BitVec 32) := chain.map fun upper => upper ++ 1#1

/-- `APB_LATENCY`: edges from Update-DR to the completion of an APB transaction, at most (R72, D38). -/
opaque apbLatency : Nat

/-! Host parameters, recorded and read by no rule of the block (R10). -/

abbrev syncReadWaitEdges : Nat := 100
abbrev pipelineDiscard : Nat := 2
abbrev oracleTolerance : Nat := 2

/-- How far `SCAN_CAP` lies above its least value `32N + 1` (R10, C3). -/
opaque scanCapSlack : Nat

/-- `SCAN_CAP`, at least `32N + 1` samples for a chain of N devices (R10, C3). -/
def scanCap : Nat := idcodeLen * chain.length + 1 + scanCapSlack

/-! Free values of the target. Each is applied to `Target.history`, which differs at every edge and records
everything driven so far, so that nothing relates the values of two different runs. Log entry 4. -/

/-- The serial-out oracle `tdo` (R9, R37): for each history, an edge index gives a bit. -/
opaque tdo : Nat → Nat → Bit

/-- The IR when nothing fixes it: power-up (R50), a scan of another length than 5 (R102, I5), an update that may carry
the reserved operation (I3, I6, R266), an unknown TAP state (R33, N7). -/
opaque freeIr : Nat → BitVec 5

/-- The APB-control register when nothing fixes it (R48, N6, N7, I3, I5, I6, I9). -/
opaque freeControl : Nat → BitVec 32

/-- What the IR captures (R93, I10). -/
opaque irCapture : Nat → BitVec 5

/-- What the APB-control register captures: its read value is not in source (R48). -/
opaque controlCapture : Nat → BitVec 32

/-- The bits of a reply that no rule fixes (R70, R71, I7). -/
opaque freeReply : Nat → BitVec 50

/-- How long a transaction takes, before the bound `apbLatency` (R72). -/
opaque freeLatency : Nat → Nat

/-- Whether a request is performed when an earlier one is or may be in flight (R71, D39, I12), or before the boot order
has been followed (I9). -/
opaque freePerformed : Nat → Bool

/-- Which completed transaction a reply reports (R70, R72, D37, R266). -/
opaque freePick : Nat → Nat

/-- The value the target returns for a READ (R67, R71). -/
opaque freeReadValue : Nat → BitVec 32

/-- The status of a transaction, 0 when it completed without error (R71, R98). -/
opaque freeStatus : Nat → BitVec 2

end Sys2Proof.Config
end

