-- ==== Sys2Proof/Machine/Operands.lean ====
section
/-! DEFINITION. Every operand form: the bit codec's two conversions (R120, R121), the frame's fields and assembly (R95, R96, R200, R201), and the TMS sequences (R91). -/

namespace Sys2Proof.Machine

/-! Bit Sequences and naturals. -/

/-- The list of R120, `(value >> i) & 1` for `i` from 0 to `width - 1`. -/
def bitsOfNat (value width : Nat) : BitSeq :=
  (List.range width).map fun i => value.testBit i

/-- The sum of R121: index 0 has weight 1, each next index twice the weight. -/
def valueOfBits : BitSeq → Nat
  | [] => 0
  | b :: rest => b.toNat + 2 * valueOfBits rest

/-! The 50-bit frame. -/

/-- `encode` (R200): each field masked to its width and put in its place. -/
def encodeFrame (address data : Nat) (operation : ApbOp) : Nat :=
  ((address &&& 0xFFFF) <<< 34) ||| ((data &&& 0xFFFFFFFF) <<< 2) ||| operation.code

/-- `decode(raw).data` (R201), frame bits [33:2]. -/
def frameData (raw : Nat) : Nat := (raw >>> 2) &&& 0xFFFFFFFF

/-- `decode(raw).status` (R201), frame bits [1:0]; the op field of a request (R95). -/
def frameStatus (raw : Nat) : Nat := raw &&& 0x3

/-- Frame bits [49:34], the address field (R95). -/
def frameAddress (raw : Nat) : Nat := (raw >>> 34) &&& 0xFFFF

/-! TMS sequences, first edge leftmost (R91). -/

def tmsReset : BitSeq := [true, true, true, true, true]
def tmsGotoShiftIr : BitSeq := [false, true, true, false, false]
def tmsGotoShiftDr : BitSeq := [false, true, false, false]
def tmsReturnToIdle : BitSeq := [true, false]

/-- `0` for every edge but the last, then `1` (R91, R150); no edge for no bit. -/
def tmsShift (n : Nat) : BitSeq :=
  match n with
  | 0 => []
  | k + 1 => List.replicate k false ++ [true]

/-- The (TMS, TDI) pairs of a sequence during which serial-in is held (R91). -/
def heldAt (tms : BitSeq) (tdi : Bit) : List (Bit × Bit) :=
  tms.map fun m => (m, tdi)

/-- The (TMS, TDI) pairs of `shift(bits)` (R150). -/
def shiftEdges (bits : BitSeq) : List (Bit × Bit) :=
  (tmsShift bits.length).zip bits

end Sys2Proof.Machine
end

