-- ==== Sys2Proof/Syntax.lean ====
section
/-! DEFINITION. The operations of the block, one constructor per row of the opcode table (R2, R104). -/

namespace Sys2Proof

/-- The block's operations. `tdi` is the value held on serial-in by a navigator operation, 0 by default (R104, D4). -/
inductive Instr where
  /-- `reset(tdi)`, R146. -/
  | reset (tdi : Bit)
  /-- `goto_shift_ir(tdi)`, R147. -/
  | gotoShiftIr (tdi : Bit)
  /-- `goto_shift_dr(tdi)`, R148. -/
  | gotoShiftDr (tdi : Bit)
  /-- `return_to_idle(tdi)`, R149. -/
  | returnToIdle (tdi : Bit)
  /-- `shift(bits_in)`, R150. -/
  | shift (bitsIn : BitSeq)
  /-- `wait(n)`, R151. -/
  | wait (n : Nat)
  /-- `write_instruction(ir_bits)`, R180. -/
  | writeInstruction (irBits : BitSeq)
  /-- `write_data(dr_bits)`, R181. -/
  | writeData (drBits : BitSeq)
  /-- `bits_of(value, width)`, R120. -/
  | bitsOf (value : Nat) (width : Int)
  /-- `value_of(bits)`, R121. -/
  | valueOf (bits : BitSeq)
  /-- `encode(address, data, operation)`, R200. -/
  | encode (address data : Nat) (operation : ApbOp)
  /-- `decode(raw)`, R201. -/
  | decode (raw : Nat)
  /-- A NONE frame with these address and data fields, R205; the source uses 0 and 0. -/
  | apbNone (address data : Nat)
  /-- A READ frame, R203; the data field is 0 in every source use. -/
  | apbRead (address data : Nat)
  /-- A WRITE frame, R204. -/
  | apbWrite (address data : Nat)
  /-- The IR opcode `OPC_IDCODE`, written to the IR, R92. -/
  | irIdcode
  /-- The IR opcode `OPC_APB_CONTROL`, written to the IR, R92. -/
  | irApbControl
  /-- The IR opcode `OPC_APB_ACCESS`, written to the IR, R92. -/
  | irApbAccess
  deriving DecidableEq, Repr

/-- The opcode table's column "format". -/
def Instr.format : Instr → Format
  | .reset _ => .tmsSequence
  | .gotoShiftIr _ => .tmsSequence
  | .gotoShiftDr _ => .tmsSequence
  | .returnToIdle _ => .tmsSequence
  | .shift _ => .tmsSequence
  | .wait _ => .tmsSequence
  | .writeInstruction _ => .scan
  | .writeData _ => .scan
  | .bitsOf _ _ => .function
  | .valueOf _ => .function
  | .encode _ _ _ => .function
  | .decode _ => .function
  | .apbNone _ _ => .apbFrame50
  | .apbRead _ _ => .apbFrame50
  | .apbWrite _ _ => .apbFrame50
  | .irIdcode => .ir5
  | .irApbControl => .ir5
  | .irApbAccess => .ir5

end Sys2Proof
end

