-- ==== Sys2Proof/WellFormed.lean ====
section
/-! DEFINITION. Well-formed operations: the operands that an encoding of the opcode table can hold whole. -/

namespace Sys2Proof

/-- A frame's address field is 16 bits and its data field 32 bits (R95). -/
def frameFieldsFit (address data : Nat) : Bool :=
  decide (address < 2 ^ Config.addrW) && decide (data < 2 ^ Config.dataW)

/-- Only the three frame rows hold operands that their encoding could not hold: an address or a data word wider
than its field, which a call may still have and which is masked (R200, R204). -/
def Instr.wellFormed : Instr → Bool
  | .reset _ => true
  | .gotoShiftIr _ => true
  | .gotoShiftDr _ => true
  | .returnToIdle _ => true
  | .shift _ => true
  | .wait _ => true
  | .writeInstruction _ => true
  | .writeData _ => true
  | .bitsOf _ _ => true
  | .valueOf _ => true
  | .encode _ _ _ => true
  | .decode _ => true
  | .apbNone address data => frameFieldsFit address data
  | .apbRead address data => frameFieldsFit address data
  | .apbWrite address data => frameFieldsFit address data
  | .irIdcode => true
  | .irApbControl => true
  | .irApbAccess => true

end Sys2Proof
end

