-- ==== Sys2Proof/Decode.lean ====
section
/-! DEFINITION. From call words to operations, total and rejecting by name, and the encoder back (R90 to R99). -/

namespace Sys2Proof

open Machine

/-- Why a call word is no operation of the block. -/
inductive Reject where
  /-- A TMS sequence that is no operation's: the host has no raw access to the lines (R91, R153). -/
  | noSuchTmsSequence
  /-- A navigator operation other than `shift` holds serial-in at one value (R91, D4); this word changes it. -/
  | tdiNotHeld
  /-- A frame has 50 bits (R94); this value has more. -/
  | frameTooWide
  /-- Operation code 3 names no operation: "one of {None, Read, Write}" (R97). -/
  | reservedOperation
  /-- An `encode` call whose operation code is none of 0, 1, 2 (R200). -/
  | noSuchOperation
  /-- An IR value that none of the three named opcodes has (R92, R103). -/
  | noSuchOpcode
  deriving DecidableEq, Repr

/-- The one value a sequence of TDI values holds, if it holds one. -/
def heldTdi : BitSeq → Option Bit
  | [] => none
  | t :: rest => if rest = List.replicate rest.length t then some t else none

/-- A navigator operation from the (TMS, TDI) pairs it drives (R91). No two rows share a TMS sequence. -/
def decodeTms (edges : List (Bit × Bit)) : Except Reject Instr :=
  let tms := edges.map Prod.fst
  let tdi := edges.map Prod.snd
  if tms = tmsShift edges.length then .ok (.shift tdi)
  else if tms = tmsReset ∨ tms = tmsGotoShiftIr ∨ tms = tmsGotoShiftDr ∨ tms = tmsReturnToIdle then
    match heldTdi tdi with
    | none => .error .tdiNotHeld
    | some t =>
      if tms = tmsReset then .ok (.reset t)
      else if tms = tmsGotoShiftIr then .ok (.gotoShiftIr t)
      else if tms = tmsGotoShiftDr then .ok (.gotoShiftDr t)
      else .ok (.returnToIdle t)
  else .error .noSuchTmsSequence

/-- An operation code read back (R97). -/
def decodeOp : Nat → Option ApbOp
  | 0 => some .none
  | 1 => some .read
  | 2 => some .write
  | _ => none

/-- A frame row from its 50-bit value, by its op field (R95, R97, R99). -/
def decodeFrameCall (raw : Nat) : Except Reject Instr :=
  if raw < 2 ^ Config.apbDrLen then
    match decodeOp (frameStatus raw) with
    | some .none => .ok (.apbNone (frameAddress raw) (frameData raw))
    | some .read => .ok (.apbRead (frameAddress raw) (frameData raw))
    | some .write => .ok (.apbWrite (frameAddress raw) (frameData raw))
    | none => .error .reservedOperation
  else .error .frameTooWide

/-- An IR opcode row from its 5-bit value (R92). -/
def decodeIrOpcode (opcode : BitVec 5) : Except Reject Instr :=
  if opcode = Config.opcIdcode then .ok .irIdcode
  else if opcode = Config.opcApbControl then .ok .irApbControl
  else if opcode = Config.opcApbAccess then .ok .irApbAccess
  else .error .noSuchOpcode

/-- The decoder. -/
def decodeCall : CallWord → Except Reject Instr
  | .tmsSequence edges => decodeTms edges
  | .heldEdges n => .ok (.wait n)
  | .irScan bits => .ok (.writeInstruction bits)
  | .drScan bits => .ok (.writeData bits)
  | .bitsOf value width => .ok (.bitsOf value width)
  | .valueOf bits => .ok (.valueOf bits)
  | .encode address data operation =>
    match decodeOp operation with
    | some op => .ok (.encode address data op)
    | none => .error .noSuchOperation
  | .decode raw => .ok (.decode raw)
  | .frame raw => decodeFrameCall raw
  | .irOpcode opcode => decodeIrOpcode opcode

/-- The encoder, from the same tables. -/
def encodeCall : Instr → CallWord
  | .reset tdi => .tmsSequence (heldAt tmsReset tdi)
  | .gotoShiftIr tdi => .tmsSequence (heldAt tmsGotoShiftIr tdi)
  | .gotoShiftDr tdi => .tmsSequence (heldAt tmsGotoShiftDr tdi)
  | .returnToIdle tdi => .tmsSequence (heldAt tmsReturnToIdle tdi)
  | .shift bits => .tmsSequence (shiftEdges bits)
  | .wait n => .heldEdges n
  | .writeInstruction bits => .irScan bits
  | .writeData bits => .drScan bits
  | .bitsOf value width => .bitsOf value width
  | .valueOf bits => .valueOf bits
  | .encode address data op => .encode address data op.code
  | .decode raw => .decode raw
  | .apbNone address data => .frame (encodeFrame address data .none)
  | .apbRead address data => .frame (encodeFrame address data .read)
  | .apbWrite address data => .frame (encodeFrame address data .write)
  | .irIdcode => .irOpcode Config.opcIdcode
  | .irApbControl => .irOpcode Config.opcApbControl
  | .irApbAccess => .irOpcode Config.opcApbAccess

/-! The opcode table's numbered words. -/

/-- The `nbits` low bits of `w`, the leftmost character of the table's pattern first. -/
def patternBits (nbits w : Nat) : BitSeq := (bitsOfNat w nbits).reverse

/-- The call word of a table word: the table's patterns of at most 8 bits are TMS sequences, first edge leftmost,
with serial-in at its default 0; a byte that holds one of the four fixed patterns of 5, 4 and 2 characters, above
them only 0, is that pattern; a longer word is a 50-bit frame, bit 49 leftmost. DESIGN CHOICE, log entry 25. -/
def tableCall (nbits w : Nat) : CallWord :=
  if nbits ≤ 8 then
    .tmsSequence (heldAt
      (if w = 0b11111 then tmsReset
       else if w = 0b01100 then tmsGotoShiftIr
       else if w = 0b0100 then tmsGotoShiftDr
       else if w = 0b10 then tmsReturnToIdle
       else patternBits nbits w) false)
  else .frame w

/-- What the decoder reads from a table word. -/
def decodeTableWord (nbits w : Nat) : Option Instr :=
  match decodeCall (tableCall nbits w) with
  | .ok i => some i
  | .error _ => none

end Sys2Proof
end

