-- ==== Sys2Proof/Machine/State.lean ====
section
/-! DEFINITION. The state of the block (R31), of the target as the block's rules refer to it (R44 to R49), and of the host interface (R245); its value at power-up (R50, R260); the reasons a step can stop. -/

namespace Sys2Proof.Machine

/-- The sixteen TAP states, in the order of R32. -/
inductive TapState where
  | tlr
  | rti
  | selDR
  | capDR
  | shiftDR
  | exit1DR
  | pauseDR
  | exit2DR
  | updateDR
  | selIR
  | capIR
  | shiftIR
  | exit1IR
  | pauseIR
  | exit2IR
  | updateIR
  deriving DecidableEq, Repr

/-- `s.tap`: a TAP state or `Unknown` (R31, R33). -/
inductive Tap where
  | unknown
  | known (q : TapState)
  deriving DecidableEq, Repr

/-- A driven line: `Undriven` until its first `Drive`, then the last value driven (R31, R36). -/
inductive Line where
  | undriven
  | driven (b : Bit)
  deriving DecidableEq, Repr

/-- The five error kinds (R230). The block raises the first two; the other three are the host's (R233). -/
inductive ErrorKind where
  | domainError
  | protocolStateError
  | protocolTimeoutError
  | accessStatusError
  | timingInconsistencyError
  deriving DecidableEq, Repr

/-- The value an error carries: the offending argument, or the current `s.tap` (R230). -/
inductive ErrorInfo where
  | argument (v : Int)
  | tap (t : Tap)
  deriving DecidableEq, Repr

/-- An entry of `s.errors`, the source's `(code, info)` (R235). -/
structure ErrorRecord where
  kind : ErrorKind
  info : ErrorInfo
  deriving DecidableEq, Repr

/-- What a call hands back to the host (R245). Log entry 3. -/
inductive Result where
  | nothing
  | bits (b : BitSeq)
  | value (v : Nat)
  | reply (data status : Nat)
  | raised (e : ErrorRecord)
  deriving DecidableEq, Repr

/-- The two accesses that start an APB transaction (R97). -/
inductive Access where
  | read
  | write
  deriving DecidableEq, Repr

/-- A requested APB transaction (R49, R70, R71). -/
structure Txn where
  /-- The number `k` of the scan that requested it (R70). -/
  scan : Nat
  access : Access
  address : BitVec 16
  /-- The data field of the request; a READ's is ignored (D32). -/
  data : BitVec 32
  /-- The edge at which the TAP entered Update-DR (R144). -/
  issuedAt : Nat
  /-- Edges from there to completion, at most `APB_LATENCY` (R72, D38). -/
  latency : Nat
  /-- Whether the target performs it at all (R71, D39). -/
  performed : Bool
  /-- What the target returns for a READ (R71). -/
  value : BitVec 32
  /-- 0 when it completes without error (R71, R98). -/
  status : BitVec 2
  deriving DecidableEq, Repr

/-- How far the boot order of R262 has come since nothing was known of the target's APB state. Log entry 11. -/
inductive Boot where
  | needReset
  | needControl
  | ready
  deriving DecidableEq, Repr

/-- The target, as far as the block's rules refer to it. Its TAP state is the navigator's `tap` (R44). -/
structure Target where
  /-- The instruction register (R45). -/
  ir : BitVec 5
  /-- The APB-control register (R48). -/
  control : BitVec 32
  /-- The register between serial-in and serial-out, index 0 next to serial-out; empty when its length is unknown (R144, R46). -/
  shiftReg : BitSeq
  /-- Shift edges since the last capture (R144). -/
  shifted : Nat
  /-- The level of serial-out (R37). -/
  tdo : Bit
  /-- Scans of the APB data register so far (R70). -/
  scans : Nat
  /-- The transactions they requested, oldest first (R49). -/
  txns : List Txn
  /-- The scan before was a READ, the last of `txns`, and nothing but idle edges has come since (R73). -/
  awaited : Bool
  /-- The scan whose transaction the last captured reply reports; none when the reply is any value (R70). -/
  reports : Option Nat
  boot : Boot
  /-- The last edge at which an update of unknown effect came (R266, I3, I5, I6, I13), so that the target may have issued
  transactions there that no scan requested; none when there was none. Log entry 31. -/
  stray : Option Nat
  /-- The last edge made while the TAP state was unknown, 0 at power-up: what the target's APB bridge was doing then is
  not in source (N7). Log entry 32. -/
  unknownAt : Nat
  /-- The TAP has passed Test-Logic-Reset and no Update state since, so that a Shift-DR reached now is entered from
  Test-Logic-Reset (R47). Log entry 33. -/
  fromTlr : Bool
  /-- The model's own: a number for everything driven so far, the argument of every free value. Log entry 4. -/
  history : Nat
  deriving DecidableEq, Repr

/-- The state of the machine. -/
structure State where
  /-- The TAP state the navigator holds the target to be in (R31). -/
  tap : Tap
  /-- Mode-select (R31). -/
  tms : Line
  /-- Serial-in (R31). -/
  tdi : Line
  /-- Clock edges since power-up (R35). -/
  edges : Nat
  /-- `s.sr_in`: the bits the running `shift` has still to drive (R38). -/
  srIn : BitSeq
  /-- `s.sr_out`: the samples of the running `shift` (R38). -/
  srOut : BitSeq
  /-- Every error raised so far, oldest first (R41). -/
  errors : List ErrorRecord
  target : Target
  /-- The calls the host has issued and the block has not taken, oldest first (R39, R75). Log entry 2. -/
  calls : List CallWord
  /-- The index of the next operation in the host's list (R39). Log entry 2. -/
  pc : Nat
  /-- What the last call handed back (R245). Log entry 3. -/
  result : Result
  deriving DecidableEq, Repr

/-- The target at power-up: R50 says of its IR "unspecified until the target's TAP passes TLR" and of its other state
"not in source", so the registers hold free values. Log entries 4, 7, 8, 9, 10, 32, 33. -/
def Target.powerUp : Target where
  ir := Config.freeIr 0
  control := Config.freeControl 0
  shiftReg := []
  shifted := 0
  tdo := Config.tdo 0 0
  scans := 0
  txns := []
  awaited := false
  reports := none
  boot := .needReset
  stray := none
  unknownAt := 0
  fromTlr := false
  history := 0

/-- Power-up (R50, R260). -/
def State.reset : State where
  tap := .unknown
  tms := .undriven
  tdi := .undriven
  edges := 0
  srIn := []
  srOut := []
  errors := []
  target := .powerUp
  calls := []
  pc := 0
  result := .nothing

/-- The spec leaves no behaviour to a fault or a stuck state (93_implementation_defined.md, Part 1), so there is no
fault: nothing raises one, which is neither safe nor unsafe. -/
inductive Fault
  deriving DecidableEq, Repr

/-- Why a step is refused. -/
inductive Refusal where
  /-- Raised by `exec`'s arm of an operation that has no meaning yet; none is left. Safe: nothing can be proved of it. -/
  | notModelled (mnemonic : String)
  /-- Raised by `step` when the next call word is no operation of the block (R97, R103, R153): the host is offered no
  such call. Safe: the machine stops where the spec gives no operation. Log entry 21. -/
  | notAnOperation (why : Reject)
  deriving DecidableEq, Repr

end Sys2Proof.Machine
end

