-- ==== Sys2Proof/Machine/Flags.lean ====
section
/-! DEFINITION. The block has no flags and no condition codes (R40); the one status value is the status field of a reply, and each error kind has a code. -/

namespace Sys2Proof.Machine

/-- "Status 0 means the access the reply corresponds to completed without error" (R98); 1, 2 and 3 are failures, not
told apart (D30). -/
def statusIsOk (status : Nat) : Bool := status == 0

/-- The code of an error kind (R230, D14). -/
def ErrorKind.code : ErrorKind → Nat
  | .domainError => 1
  | .protocolStateError => 2
  | .protocolTimeoutError => 3
  | .accessStatusError => 4
  | .timingInconsistencyError => 5

/-- Whether the block itself raises an error of this kind (R230, R233). -/
def ErrorKind.raisedByBlock : ErrorKind → Bool
  | .domainError => true
  | .protocolStateError => true
  | .protocolTimeoutError => false
  | .accessStatusError => false
  | .timingInconsistencyError => false

end Sys2Proof.Machine
end

