-- ==== Sys2Proof/Machine/Tap.lean ====
section
/-! DEFINITION. The TAP transition table (R140, R141), the state numbers (R32) and the legal states of the operations (R145). -/

namespace Sys2Proof.Machine

/-- The index of R32. -/
def TapState.index : TapState → Nat
  | .tlr => 0
  | .rti => 1
  | .selDR => 2
  | .capDR => 3
  | .shiftDR => 4
  | .exit1DR => 5
  | .pauseDR => 6
  | .exit2DR => 7
  | .updateDR => 8
  | .selIR => 9
  | .capIR => 10
  | .shiftIR => 11
  | .exit1IR => 12
  | .pauseIR => 13
  | .exit2IR => 14
  | .updateIR => 15

/-- `Next(q, m)` (R140): the second column of the table is `m = 0`, the third `m = 1`. The table is general knowledge,
PRESUMED by the spec (G1). Log entry 26. -/
def TapState.next (q : TapState) (m : Bit) : TapState :=
  match q, m with
  | .tlr, false => .rti
  | .tlr, true => .tlr
  | .rti, false => .rti
  | .rti, true => .selDR
  | .selDR, false => .capDR
  | .selDR, true => .selIR
  | .capDR, false => .shiftDR
  | .capDR, true => .exit1DR
  | .shiftDR, false => .shiftDR
  | .shiftDR, true => .exit1DR
  | .exit1DR, false => .pauseDR
  | .exit1DR, true => .updateDR
  | .pauseDR, false => .pauseDR
  | .pauseDR, true => .exit2DR
  | .exit2DR, false => .shiftDR
  | .exit2DR, true => .updateDR
  | .updateDR, false => .rti
  | .updateDR, true => .selDR
  | .selIR, false => .capIR
  | .selIR, true => .tlr
  | .capIR, false => .shiftIR
  | .capIR, true => .exit1IR
  | .shiftIR, false => .shiftIR
  | .shiftIR, true => .exit1IR
  | .exit1IR, false => .pauseIR
  | .exit1IR, true => .updateIR
  | .pauseIR, false => .pauseIR
  | .pauseIR, true => .exit2IR
  | .exit2IR, false => .shiftIR
  | .exit2IR, true => .updateIR
  | .updateIR, false => .rti
  | .updateIR, true => .selDR

/-- `Next` on `s.tap`; `Next(Unknown, m) = Unknown` (R141). -/
def Tap.next (t : Tap) (m : Bit) : Tap :=
  match t with
  | .unknown => .unknown
  | .known q => .known (q.next m)

/-- The TAP state after an edge that sees these levels on mode-select: `Unknown` when it is undriven (R151). -/
def Tap.afterEdge (t : Tap) (tms : Line) : Tap :=
  match tms with
  | .undriven => .unknown
  | .driven m => t.next m

/-! Legal states (R145). -/

/-- TLR or RTI: `goto_shift_ir`, `goto_shift_dr`, `write_instruction`, `write_data` (R145, R232). -/
def Tap.resetOrIdle (t : Tap) : Bool := t = .known .tlr ∨ t = .known .rti

/-- Exit1IR or Exit1DR: `return_to_idle` (R145). -/
def Tap.exit1 (t : Tap) : Bool := t = .known .exit1IR ∨ t = .known .exit1DR

/-- ShiftIR or ShiftDR: `shift` (R145). -/
def Tap.shifting (t : Tap) : Bool := t = .known .shiftIR ∨ t = .known .shiftDR

/-- TLR, RTI or `Unknown`: `wait` (R145). -/
def Tap.mayWait (t : Tap) : Bool := t = .unknown ∨ t.resetOrIdle

end Sys2Proof.Machine
end

