-- ==== Sys2Proof/Machine/Target.lean ====
section
/-! DEFINITION. What the block's rules say the target does at a clock edge: registers (R44 to R49, R144) and the pairing of replies with requests (R70 to R73). -/

namespace Sys2Proof.Machine

/-! The lines as the target sees them. -/

/-- The level of a line; an undriven line has the level `free`. -/
def Line.level (free : Bit) : Line → Bit
  | .undriven => free
  | .driven b => b

def Line.code : Line → Nat
  | .undriven => 0
  | .driven false => 1
  | .driven true => 2

/-- Enters the levels of one more edge into the history, so that the number is a different one after every different
sequence of levels. Log entry 4. -/
def Target.record (tms tdi : Line) (t : Target) : Target :=
  { t with history := t.history * 9 + (3 * tms.code + tdi.code) + 1 }

/-! Which data register the IR selects (R46). -/

/-- What a Shift-DR exchanges bits with (R46); `other` stands for an IR value the source does not name. -/
inductive DataReg where
  | idcodeChain
  | apbControl
  | apbAccess
  | other
  deriving DecidableEq, Repr

/-- R46. -/
def selectedDr (ir : BitVec 5) : DataReg :=
  if ir = Config.opcIdcode then .idcodeChain
  else if ir = Config.opcApbControl then .apbControl
  else if ir = Config.opcApbAccess then .apbAccess
  else .other

/-! The APB side. -/

/-- An update of unknown effect at edge `e` (I3, I5, I6, I13): until the host has followed the boot order again nothing is
known of the replies. The transactions requested before are not cancelled (R261), and from `e` on there may be others that
no scan requested (R266). Log entries 19, 31. -/
def Target.loseApb (e : Nat) (t : Target) : Target :=
  { t with awaited := false, reports := none, boot := .needReset, stray := some e }

/-- An update after which "the target state … is unknown" (I3): its IR and its control register take free values too. Log
entry 19. -/
def Target.loseState (e : Nat) (t : Target) : Target :=
  { t.loseApb e with ir := Config.freeIr t.history, control := Config.freeControl t.history }

/-- A transaction has completed by edge `e` (R70, D38). -/
def Txn.completedBy (e : Nat) (x : Txn) : Bool :=
  x.performed && decide (x.issuedAt + x.latency ≤ e)

/-- A transaction is in flight at edge `e`: performed and not completed (R71). -/
def Txn.inFlightAt (e : Nat) (x : Txn) : Bool :=
  x.performed && !decide (x.issuedAt + x.latency ≤ e)

/-- A transaction that no scan requested may be in flight at edge `e`: less than `APB_LATENCY` edges have passed since an
update of unknown effect or since the TAP state was unknown (R72, N7). Log entries 31, 32. -/
def Target.mayBeBusy (e : Nat) (t : Target) : Bool :=
  decide (e < t.unknownAt + Config.apbLatency) || t.stray.any fun i => decide (e < i + Config.apbLatency)

/-- The transaction of this request, issued as the TAP enters Update-DR at edge `e` (R144, R203, R204). A request made
while another is or may be in flight, or before the boot order of R262 has been followed, may or may not be performed
(R71, D39). -/
def Target.newTxn (access : Access) (frame e : Nat) (t : Target) : Txn where
  scan := t.scans
  access := access
  address := BitVec.ofNat 16 (frameAddress frame)
  data := BitVec.ofNat 32 (frameData frame)
  issuedAt := e
  latency := min (Config.freeLatency t.history) Config.apbLatency
  performed := (decide (t.boot = .ready) && !t.txns.any (·.inFlightAt e) && !t.mayBeBusy e)
    || Config.freePerformed t.history
  value := Config.freeReadValue t.history
  status := Config.freeStatus t.history

/-- The request of one scan of the APB data register (R70, R97): None starts no transaction (R205); after
the reserved operation the target's state is unknown (I3). -/
def Target.request (frame e : Nat) (t : Target) : Target :=
  let t := { t with scans := t.scans + 1, awaited := false }
  match decodeOp (frameStatus frame) with
  | some .none => t
  | some .read => { t with txns := t.txns ++ [t.newTxn .read frame e], awaited := decide (t.boot = .ready) }
  | some .write => { t with txns := t.txns ++ [t.newTxn .write frame e] }
  | none => t.loseState e

/-- The edges of a scan that lie between the Update-DR of the scan before and its own capture, when nothing comes
between them: one to Run-Test/Idle and four of `goto_shift_dr` (R91, `95_test_vectors.md` P5). -/
def scanGap : Nat := 5

/-- R73: the READ of the scan before, when at least `APB_LATENCY` edges were waited since. Log entry 12. -/
def Target.awaitedRead (e : Nat) (t : Target) : Option Txn :=
  match t.awaited, t.txns.getLast? with
  | true, some x => if x.issuedAt + scanGap + Config.apbLatency ≤ e then some x else none
  | _, _ => none

/-- The completed transaction reported may be one that no scan requested: there may be one, and no scan's transaction has
surely completed after it ("the most recently *completed* APB transaction", R70; R266). Log entry 31. -/
def Target.strayMayBeLatest (e : Nat) (t : Target) : Bool :=
  t.stray.any fun i =>
    !t.txns.any fun x => x.completedBy e && decide (i + Config.apbLatency ≤ x.issuedAt + x.latency)

/-- R70: the transaction that the reply captured at edge `e` reports. When R73 does not name it, it is any transaction
that has completed; when none has, or when it may be one no scan requested, the reply reports none. Log entries 10, 31. -/
def Target.pairing (e : Nat) (t : Target) : Option Txn :=
  match t.boot with
  | .ready =>
    match t.awaitedRead e with
    | some x => some { x with performed := true }
    | none =>
      let completed := t.txns.filter (·.completedBy e)
      completed[Config.freePick t.history % (completed.length + (t.strayMayBeLatest e).toNat)]?
  | .needReset => none
  | .needControl => none

/-- The reply that reports `x` (R71): a READ's data and any transaction's status are what the target returned; the
other bits are `free`. With nothing to report it is any 50-bit value (R70). -/
def replyFrame (free : BitVec 50) : Option Txn → BitVec 50
  | none => free
  | some x =>
    let data := match x.access with
      | .read => x.value
      | .write => free.extractLsb' 2 32
    free.extractLsb' 34 16 ++ data ++ x.status

/-- The transactions once a reply has been captured at edge `e`: the READ waited for, which it then reports (R73), is known
to have been performed. Log entry 12. -/
def Target.settle (e : Nat) (t : Target) : List Txn :=
  if t.boot = .ready then
    match t.awaitedRead e with
    | some x => t.txns.dropLast ++ [{ x with performed := true }]
    | none => t.txns
  else t.txns

/-! What each TAP state does to the target as the edge leaves it (R144). -/

/-- The edge that leaves Capture-IR: what the IR captures is not in source (R93). -/
def Target.captureIr (e : Nat) (t : Target) : Target :=
  { t with
    shiftReg := bitsOfNat (Config.irCapture t.history).toNat Config.irLen
    shifted := 0
    tdo := Config.tdo t.history e }

/-- The edge that leaves Capture-DR: the selected register loads its capture value (R144): the IDCODEs, first device
first (R47); for the APB data register the reply (R70). -/
def Target.captureDr (e : Nat) (t : Target) : Target :=
  let t := { t with shifted := 0, tdo := Config.tdo t.history e }
  match selectedDr t.ir with
  | .idcodeChain => { t with shiftReg := Config.idcodes.flatMap fun c => bitsOfNat c.toNat Config.idcodeLen }
  | .apbControl => { t with shiftReg := bitsOfNat (Config.controlCapture t.history).toNat Config.ctrlDrLen }
  | .apbAccess =>
    let x := t.pairing e
    { t with
      shiftReg := bitsOfNat (replyFrame (Config.freeReply t.history) x).toNat Config.apbDrLen
      txns := t.settle e
      reports := x.map (·.scan) }
  | .other => { t with shiftReg := [] }

/-- The register one position further toward serial-out, with the TDI value at its far end (R144). A register of
unknown length stays empty. -/
def shiftIn (reg : BitSeq) (tdi : Bit) : BitSeq :=
  match reg with
  | [] => []
  | _ :: rest => rest ++ [tdi]

/-- The samples of R47: the IDCODE chain is selected, and the Shift-DR is entered from Test-Logic-Reset. -/
abbrev Target.ReadsIdcodes (t : Target) : Prop := t.fromTlr = true ∧ t.ir = Config.opcIdcode

/-- A shift of `n` bits begins. Unless `n` is the length of the selected register the target returns any value for the
samples (I5), so nothing is known of what the register holds; R47 gives the samples of the IDCODE chain after
Test-Logic-Reset at any length. Log entry 29. -/
def Target.beginShift (n : Nat) (t : Target) : Target :=
  if n = t.shiftReg.length ∨ t.ReadsIdcodes then t else { t with shiftReg := [] }

/-- The sample of a Shift-DR edge: the captured bits in order (R144, D1); after the last IDCODE of R47 a 0; otherwise it is
the oracle's (I2, I5). Log entries 13, 29. -/
def Target.serialOut (free : Bit) (t : Target) : Bit :=
  if t.shifted < t.shiftReg.length then t.shiftReg.headD free
  else if t.ReadsIdcodes ∧ t.shifted = t.shiftReg.length then false
  else free

/-- An edge that leaves Shift-DR (R144). -/
def Target.shiftDrEdge (tdi : Bit) (e : Nat) (t : Target) : Target :=
  { t with
    tdo := t.serialOut (Config.tdo t.history e)
    shiftReg := shiftIn t.shiftReg tdi
    shifted := t.shifted + 1 }

/-- An edge that leaves Shift-IR: the same shift; the bits shifted out are not in source (R93, I10). Log entry 14. -/
def Target.shiftIrEdge (tdi : Bit) (e : Nat) (t : Target) : Target :=
  { t with
    tdo := Config.tdo t.history e
    shiftReg := shiftIn t.shiftReg tdi
    shifted := t.shifted + 1 }

/-- Nothing is known of the target once an edge is made while its TAP state is unknown (R33, N7). Log entries 15, 32. -/
def Target.forget (e : Nat) (t : Target) : Target :=
  { t with
    ir := Config.freeIr t.history
    control := Config.freeControl t.history
    shiftReg := []
    shifted := 0
    tdo := Config.tdo t.history e
    awaited := false
    reports := none
    boot := .needReset
    unknownAt := e
    fromTlr := false }

/-- The edge that leaves `q`, at edge number `e`. -/
def Target.leave (q : Tap) (tdi : Line) (e : Nat) (t : Target) : Target :=
  let free := Config.tdo t.history e
  match q with
  | .unknown => t.forget e
  | .known .capIR => t.captureIr e
  | .known .capDR => t.captureDr e
  | .known .shiftIR => t.shiftIrEdge (tdi.level free) e
  | .known .shiftDR => t.shiftDrEdge (tdi.level free) e
  | .known _ => { t with tdo := free }

/-! What each TAP state does to the target as the edge enters it (R144). -/

/-- Test-Logic-Reset sets the IR to `OPC_IDCODE` (R45, R144) and leaves the APB side as it is (R261); the boot order
begins again (R262, I9). -/
def Target.enterTlr (t : Target) : Target :=
  { t with ir := Config.opcIdcode, awaited := false, boot := .needControl, fromTlr := true }

/-- Update-IR: the shifted value becomes the current instruction (R144, R183). After a shift of another length than 5
what the IR holds is not in source (R180, I5). -/
def Target.updateIr (t : Target) : Target :=
  { t with
    ir := if t.shifted = Config.irLen then BitVec.ofNat 5 (valueOfBits t.shiftReg) else Config.freeIr t.history
    awaited := false }

/-- The APB-control register takes the word shifted in (R48, R184). Only the write of 0 is specified: it completes the
boot step of R262; what else the register does is not in source (I13, N6). DESIGN CHOICE: the write of 0 leaves the
transactions already requested as they are, log entry 30; any other word leaves the APB state unknown, log entry 19. -/
def Target.updateControl (e : Nat) (t : Target) : Target :=
  if t.shifted = Config.ctrlDrLen then
    let word := BitVec.ofNat 32 (valueOfBits t.shiftReg)
    let t := { t with control := word, awaited := false }
    if word = 0#32 then
      match t.boot with
      | .needReset => t
      | .needControl => { t with boot := .ready }
      | .ready => t
    else t.loseApb e
  else { t.loseApb e with control := Config.freeControl t.history }

/-- Update-DR: the shifted value takes effect in the selected register (R144). A frame of another length makes the target
act on an operation that is not known (R266, I5), which may be the reserved one, and so may a shift into the register an
unnamed IR value selects (I6): the target's state is then unknown (I3). Log entry 19. -/
def Target.updateDr (e : Nat) (t : Target) : Target :=
  match selectedDr t.ir with
  | .idcodeChain => { t with awaited := false }
  | .apbControl => t.updateControl e
  | .apbAccess => if t.shifted = Config.apbDrLen then t.request (valueOfBits t.shiftReg) e else t.loseState e
  | .other => t.loseState e

/-- An Update state has been passed: the next Shift-DR is not entered from Test-Logic-Reset (R47). Log entry 33. -/
def Target.afterUpdate (t : Target) : Target := { t with fromTlr := false }

/-- The edge that enters `q`, at edge number `e`. -/
def Target.enter (q : Tap) (e : Nat) (t : Target) : Target :=
  match q with
  | .known .tlr => t.enterTlr
  | .known .updateIR => t.updateIr.afterUpdate
  | .known .updateDR => (t.updateDr e).afterUpdate
  | .known _ => t
  | .unknown => t

/-- One clock edge of the target, number `e`, from TAP state `old` to `new`, with these levels on the lines. -/
def Target.edge (old new : Tap) (tms tdi : Line) (e : Nat) (t : Target) : Target :=
  ((t.record tms tdi).leave old tdi e).enter new e

end Sys2Proof.Machine
end

