-- ==== Sys2Proof/Machine/Ops.lean ====
section
/-! DEFINITION. The named operations every meaning is built from: the signal primitives (R15), the edge step (R142), raising an error (R235) and going back to the host (R236), and the parts of the navigator's sequences. -/

namespace Sys2Proof.Machine

/-! Signal primitives (R15). -/

/-- `Drive(tms, tdi)`. -/
def State.drive (m t : Bit) (s : State) : State :=
  { s with tms := .driven m, tdi := .driven t }

/-- `Edge()`: the TAP takes one transition, the target with it, and the counter advances (R34, R35, R44). A line that
no `Drive` has changed is seen as it was (R36). -/
def State.edge (s : State) : State :=
  { s with
    tap := s.tap.afterEdge s.tms
    edges := s.edges + 1
    target := s.target.edge s.tap (s.tap.afterEdge s.tms) s.tms s.tdi (s.edges + 1) }

/-- `Sample()`: serial-out as it now is, `tdo(s.edges)` (R37, R142). -/
def State.sample (s : State) : Bit := s.target.tdo

/-- `EdgeStep(m, t)`; what it returns is the `sample` of the state it ends in (R142). -/
def State.edgeStep (m t : Bit) (s : State) : State := (s.drive m t).edge

/-- One `EdgeStep` for each (TMS, TDI) pair, in order; the samples are discarded. -/
def State.driveEdges (es : List (Bit × Bit)) (s : State) : State :=
  es.foldl (fun s e => s.edgeStep e.1 e.2) s

/-- `n` edges without a `Drive` (R151). -/
def State.heldEdges : Nat → State → State
  | 0, s => s
  | n + 1, s => State.heldEdges n s.edge

/-! Handing back to the host. -/

/-- The call ends with this result (R245). -/
def State.returns (r : Result) (s : State) : State := { s with result := r }

/-- `raise E(info)` (R15, R235): the one operation that takes an error. It appends the record and changes nothing else
of the block; the call ends and the host has the error (R236). There is no return operation: the host's next call is
the return (R236). -/
def State.raise (kind : ErrorKind) (info : ErrorInfo) (s : State) : State :=
  { s with errors := s.errors ++ [⟨kind, info⟩], result := .raised ⟨kind, info⟩ }

/-- Checks the state before an operation's first edge (R145, R232). -/
def State.requireTap (legal : Tap → Bool) (body : State → State) (s : State) : State :=
  if legal s.tap then body s else s.raise .protocolStateError (.tap s.tap)

/-- Checks that a Bit Sequence is not empty, before the state is looked at (R231, R234). -/
def State.requireBits (bits : BitSeq) (body : State → State) (s : State) : State :=
  if bits.length = 0 then s.raise .domainError (.argument bits.length) else body s

/-! The host's calls. -/

/-- The call the block takes next, and the state with it taken (R39, R75). -/
def State.takeCall (s : State) : Option (CallWord × State) :=
  match s.calls with
  | [] => none
  | c :: rest => some (c, { s with calls := rest, pc := s.pc + 1 })

/-- The host issues a call ahead of those it has issued before. -/
def State.withCall (c : CallWord) (s : State) : State := { s with calls := c :: s.calls }

/-! The parts of the navigator's operations, after their checks. -/

/-- The body of `reset` (R146): five TMS-high edges, after which the TAP state is TLR whatever it was. The target has
passed Test-Logic-Reset (R144). -/
def State.resetSequence (tdi : Bit) (s : State) : State :=
  let s := s.driveEdges (heldAt tmsReset tdi)
  { s with tap := .known .tlr, target := s.target.enterTlr }

/-- Writes the navigator's shift register, `s.sr_in` and `s.sr_out` (R38). -/
def State.setShiftReg (srIn srOut : BitSeq) (s : State) : State := { s with srIn := srIn, srOut := srOut }

/-- The loop of `shift` (R150): mode-select is raised only with the last bit; the driven bit leaves `sr_in` and the
sample enters `sr_out`. -/
def State.shiftLoop : BitSeq → State → State
  | [], s => s
  | b :: rest, s =>
    let s := s.edgeStep rest.isEmpty b
    State.shiftLoop rest (s.setShiftReg rest (s.srOut ++ [s.sample]))

/-- A shift of `n` bits begins (R102, I5). -/
def State.beginShift (n : Nat) (s : State) : State := { s with target := s.target.beginShift n }

/-- `shift` after its checks (R150): the state with the shift register loaded and then emptied again (R38), and the
samples. -/
def State.shiftBody (bits : BitSeq) (s : State) : State × BitSeq :=
  let s := State.shiftLoop bits ((s.beginShift bits.length).setShiftReg bits [])
  (s.setShiftReg [] [], s.srOut)

/-- A scan after its checks (R180, R181): go to a Shift state, shift, return to idle, serial-in 0 outside the shift. -/
def State.scanBody (goto : BitSeq) (bits : BitSeq) (s : State) : State × BitSeq :=
  let (s, r) := (s.driveEdges (heldAt goto false)).shiftBody bits
  (s.driveEdges (heldAt tmsReturnToIdle false), r)

/-- `write_instruction(ir_bits)` (R180): the samples are discarded. -/
def State.writeInstruction (bits : BitSeq) (s : State) : State :=
  s.requireBits bits fun s => s.requireTap Tap.resetOrIdle fun s =>
    (s.scanBody tmsGotoShiftIr bits).1.returns .nothing

/-- `write_data(dr_bits)` (R181), with what its caller makes of the samples. -/
def State.writeData (bits : BitSeq) (use : BitSeq → Result) (s : State) : State :=
  s.requireBits bits fun s => s.requireTap Tap.resetOrIdle fun s =>
    let (s, r) := s.scanBody tmsGotoShiftDr bits
    s.returns (use r)

end Sys2Proof.Machine
end

