-- ==== Sys2Proof/Machine/Codec.lean ====
section
/-! DEFINITION. The meanings of the codec functions (R120, R121, R200, R201): no edge, no state but the result and, on an error, the error record. -/

namespace Sys2Proof.Machine

/-- `bits_of(value, width)` (R120). -/
def execBitsOf (value : Nat) (width : Int) (s : State) : Host.Outcome State Fault Refusal :=
  .next (if width ≤ 0 then s.raise .domainError (.argument width)
    else s.returns (.bits (bitsOfNat value width.toNat)))

/-- `value_of(bits)` (R121). -/
def execValueOf (bits : BitSeq) (s : State) : Host.Outcome State Fault Refusal :=
  .next (s.requireBits bits fun s => s.returns (.value (valueOfBits bits)))

/-- `encode(address, data, operation)` (R200). -/
def execEncode (address data : Nat) (operation : ApbOp) (s : State) : Host.Outcome State Fault Refusal :=
  .next (s.returns (.value (encodeFrame address data operation)))

/-- What `decode(raw)` returns (R201). -/
def decodedReply (raw : Nat) : Result := .reply (frameData raw) (frameStatus raw)

/-- `decode(raw)` (R201). -/
def execDecode (raw : Nat) (s : State) : Host.Outcome State Fault Refusal :=
  .next (s.returns (decodedReply raw))

end Sys2Proof.Machine
end

