-- ==== Sys2Proof/Machine/Frame.lean ====
section
/-! DEFINITION. The meanings of the three frame operations (R203 to R205): one scan of the frame, and the decoded reply of an earlier transaction. -/

namespace Sys2Proof.Machine

/-- The Bit Sequence of a request frame, `bits_of(encode(address, data, operation), 50)`. -/
def frameBits (address data : Nat) (operation : ApbOp) : BitSeq :=
  bitsOfNat (encodeFrame address data operation) Config.apbDrLen

/-- A NONE frame: requests no transaction, collects a reply (R205). -/
def execApbNone (address data : Nat) (s : State) : Host.Outcome State Fault Refusal :=
  .next (s.writeData (frameBits address data .none) fun r => decodedReply (valueOfBits r))

/-- A READ frame: the reply is an earlier transaction's (R203). -/
def execApbRead (address data : Nat) (s : State) : Host.Outcome State Fault Refusal :=
  .next (s.writeData (frameBits address data .read) fun r => decodedReply (valueOfBits r))

/-- A WRITE frame: the reply is discarded (R204). -/
def execApbWrite (address data : Nat) (s : State) : Host.Outcome State Fault Refusal :=
  .next (s.writeData (frameBits address data .write) fun _ => .nothing)

end Sys2Proof.Machine
end

