-- ==== Sys2Proof/Machine/Navigator.lean ====
section
/-! DEFINITION. The meanings of the navigator's operations (R146 to R151). -/

namespace Sys2Proof.Machine

/-- `reset(tdi)` (R146); never an error. -/
def execReset (tdi : Bit) (s : State) : Host.Outcome State Fault Refusal :=
  .next ((s.resetSequence tdi).returns .nothing)

/-- `goto_shift_ir(tdi)` (R147). -/
def execGotoShiftIr (tdi : Bit) (s : State) : Host.Outcome State Fault Refusal :=
  .next (s.requireTap Tap.resetOrIdle fun s => (s.driveEdges (heldAt tmsGotoShiftIr tdi)).returns .nothing)

/-- `goto_shift_dr(tdi)` (R148). -/
def execGotoShiftDr (tdi : Bit) (s : State) : Host.Outcome State Fault Refusal :=
  .next (s.requireTap Tap.resetOrIdle fun s => (s.driveEdges (heldAt tmsGotoShiftDr tdi)).returns .nothing)

/-- `return_to_idle(tdi)` (R149). -/
def execReturnToIdle (tdi : Bit) (s : State) : Host.Outcome State Fault Refusal :=
  .next (s.requireTap Tap.exit1 fun s => (s.driveEdges (heldAt tmsReturnToIdle tdi)).returns .nothing)

/-- `shift(bits_in)` (R150). -/
def execShift (bitsIn : BitSeq) (s : State) : Host.Outcome State Fault Refusal :=
  .next (s.requireBits bitsIn fun s => s.requireTap Tap.shifting fun s =>
    let (s, r) := s.shiftBody bitsIn
    s.returns (.bits r))

/-- `wait(n)` (R151): the lines are not driven. -/
def execWait (n : Nat) (s : State) : Host.Outcome State Fault Refusal :=
  .next (s.requireTap Tap.mayWait fun s => (s.heldEdges n).returns .nothing)

end Sys2Proof.Machine
end

