-- ==== Sys2Proof/Machine/Scan.lean ====
section
/-! DEFINITION. The meanings of the scan operations (R180, R181) and of the IR opcode rows (R92, R183). -/

namespace Sys2Proof.Machine

/-- `write_instruction(ir_bits)` (R180). -/
def execWriteInstruction (irBits : BitSeq) (s : State) : Host.Outcome State Fault Refusal :=
  .next (s.writeInstruction irBits)

/-- `write_data(dr_bits)` (R181): the host gets the samples. -/
def execWriteData (drBits : BitSeq) (s : State) : Host.Outcome State Fault Refusal :=
  .next (s.writeData drBits .bits)

/-- An IR opcode is "shifted into the IR as the Bit Sequence `bits_of(opc, 5)`" (R92) by `write_instruction` (R183). -/
def State.writeOpcode (opcode : BitVec 5) (s : State) : State :=
  s.writeInstruction (bitsOfNat opcode.toNat Config.irLen)

/-- `OPC_IDCODE` written to the IR: the source's programs never do so, the block can (R92, R183). Log entry 16. -/
def execIrIdcode (s : State) : Host.Outcome State Fault Refusal :=
  .next (s.writeOpcode Config.opcIdcode)

/-- `OPC_APB_CONTROL` written to the IR (R92, R184). -/
def execIrApbControl (s : State) : Host.Outcome State Fault Refusal :=
  .next (s.writeOpcode Config.opcApbControl)

/-- `OPC_APB_ACCESS` written to the IR (R92, R262). -/
def execIrApbAccess (s : State) : Host.Outcome State Fault Refusal :=
  .next (s.writeOpcode Config.opcApbAccess)

end Sys2Proof.Machine
end

