-- ==== Sys2Proof/Machine/Dispatch.lean ====
section
/-! DEFINITION. One arm per operation: which meaning runs it. -/

namespace Sys2Proof.Machine

open Sys2Proof

def exec (i : Instr) (s : State) : Host.Outcome State Fault Refusal :=
  match i with
  | .reset tdi => Sys2Proof.Machine.execReset tdi s
  | .gotoShiftIr tdi => Sys2Proof.Machine.execGotoShiftIr tdi s
  | .gotoShiftDr tdi => Sys2Proof.Machine.execGotoShiftDr tdi s
  | .returnToIdle tdi => Sys2Proof.Machine.execReturnToIdle tdi s
  | .shift bitsIn => Sys2Proof.Machine.execShift bitsIn s
  | .wait n => Sys2Proof.Machine.execWait n s
  | .writeInstruction irBits => Sys2Proof.Machine.execWriteInstruction irBits s
  | .writeData drBits => Sys2Proof.Machine.execWriteData drBits s
  | .bitsOf value width => Sys2Proof.Machine.execBitsOf value width s
  | .valueOf bits => Sys2Proof.Machine.execValueOf bits s
  | .encode address data operation => Sys2Proof.Machine.execEncode address data operation s
  | .decode raw => Sys2Proof.Machine.execDecode raw s
  | .apbNone address data => Sys2Proof.Machine.execApbNone address data s
  | .apbRead address data => Sys2Proof.Machine.execApbRead address data s
  | .apbWrite address data => Sys2Proof.Machine.execApbWrite address data s
  | .irIdcode => Sys2Proof.Machine.execIrIdcode s
  | .irApbControl => Sys2Proof.Machine.execIrApbControl s
  | .irApbAccess => Sys2Proof.Machine.execIrApbAccess s

end Sys2Proof.Machine
end

