-- ==== Sys2Proof/Machine/Step.lean ====
section
/-! DEFINITION. One step: the block takes the host's next call, decodes it and runs it (R16, R39, R75). -/

namespace Sys2Proof.Machine

/-- With no call pending the block does nothing (R260); a call word that is no operation is refused by name. -/
def step (s : State) : Host.Outcome State Fault Refusal :=
  match s.takeCall with
  | none => .next s
  | some (c, s') =>
    match decodeCall c with
    | .ok i => exec i s'
    | .error why => .refused (.notAnOperation why)

/-- `s` with the operation of this table word as the call the block takes next. Log entry 25. -/
def State.withFetchWord (s : State) (nbits w : Nat) : State := s.withCall (tableCall nbits w)

end Sys2Proof.Machine
end

