-- ==== Sys2Proof/Safety.lean ====
section
/-! DEFINITION. What claims speak of: the operation-boundary invariant (R154), the bookkeeping of APB transactions (R49, R70), the samples along a sequence of edges (R142), and what a call leaves alone. -/

namespace Sys2Proof.Machine

/-- The states in which operations begin and end (R154, C5). -/
def Tap.boundary : Tap → Bool
  | .unknown => true
  | .known q => decide (q ∈ [TapState.tlr, .rti, .shiftIR, .shiftDR, .exit1IR, .exit1DR])

/-- What holds of the navigator's record between operations (R154, R38, R33, R50, R233). -/
structure State.AtBoundary (s : State) : Prop where
  tap : s.tap.boundary = true
  tlr : s.tap = .known .tlr → s.tms = .driven true
  rti : s.tap = .known .rti → s.tms = .driven false
  srIn : s.srIn = []
  srOut : s.srOut = []
  /-- Before the first `reset` no line has been driven (R33, R50). -/
  unknown : s.tap = .unknown → s.tms = .undriven ∧ s.tdi = .undriven
  /-- After it both lines are driven (R31, R146). -/
  known : s.tap ≠ .unknown → s.tms ≠ .undriven ∧ s.tdi ≠ .undriven
  /-- The block raises no host error (R233). -/
  errors : ∀ e ∈ s.errors, e.kind.raisedByBlock = true

/-- What holds of the target's transactions at edge number `e`: each was requested by a scan already made, at an edge
already made, and completes within `APB_LATENCY` (R70, R72); no two have one scan number; a reply reports an earlier
scan; a READ waited for is the last transaction (R73); the edges of unknown effect have been made (R266, N7). -/
structure Target.WellNumbered (t : Target) (e : Nat) : Prop where
  scan : ∀ x ∈ t.txns, x.scan ≤ t.scans
  issued : ∀ x ∈ t.txns, x.issuedAt ≤ e
  latency : ∀ x ∈ t.txns, x.latency ≤ Config.apbLatency
  distinct : t.txns.Pairwise fun x y => x.scan < y.scan
  reports : ∀ j, t.reports = some j → j ≤ t.scans
  awaited : t.awaited = true → ∃ x, t.txns.getLast? = some x ∧ x.access = .read ∧ x.scan = t.scans
  stray : ∀ i, t.stray = some i → i ≤ e
  unknownAt : t.unknownAt ≤ e

/-- The invariant of the whole machine. -/
structure State.Inv (s : State) : Prop where
  boundary : s.AtBoundary
  txns : s.target.WellNumbered s.edges

/-- The samples of the edges that drive these (TMS, TDI) pairs, in order (R142). -/
def State.samples : List (Bit × Bit) → State → BitSeq
  | [], _ => []
  | e :: es, s => (s.edgeStep e.1 e.2).sample :: State.samples es (s.edgeStep e.1 e.2)

/-- The error record (R41) and the calls not yet taken (R75) are as they were: what every operation that raises no
error leaves alone. -/
structure State.SameRecord (s t : State) : Prop where
  errors : t.errors = s.errors
  calls : t.calls = s.calls
  pc : t.pc = s.pc

/-- The navigator's shift register is as it was. -/
structure State.SameShiftReg (s t : State) : Prop where
  srIn : t.srIn = s.srIn
  srOut : t.srOut = s.srOut

/-- The navigator's shift register is empty (R38). -/
structure State.EmptyShiftReg (t : State) : Prop where
  srIn : t.srIn = []
  srOut : t.srOut = []

/-- An operation made `n` edges, ended in TAP state `q` with these levels on the lines, raised no error and left the
calls alone. -/
structure State.Drove (s t : State) (q : TapState) (tms tdi : Bit) (n : Nat) : Prop where
  tap : t.tap = .known q
  tms : t.tms = .driven tms
  tdi : t.tdi = .driven tdi
  edges : t.edges = s.edges + n
  record : s.SameRecord t

/-- The lines, the TAP state, the edge count and the target are as they were (R235: nothing was driven). -/
structure State.SameSignals (s t : State) : Prop where
  tap : t.tap = s.tap
  tms : t.tms = s.tms
  tdi : t.tdi = s.tdi
  edges : t.edges = s.edges
  target : t.target = s.target

/-- The target's registers and transactions are as they were. -/
structure Target.SameRegisters (t u : Target) : Prop where
  ir : u.ir = t.ir
  control : u.control = t.control
  scans : u.scans = t.scans
  txns : u.txns = t.txns
  boot : u.boot = t.boot
  awaited : u.awaited = t.awaited
  reports : u.reports = t.reports
  stray : u.stray = t.stray
  unknownAt : u.unknownAt = t.unknownAt
  fromTlr : u.fromTlr = t.fromTlr

/-- The same transaction in every field; only the READ waited for may have been shown to be performed, by the reply that
reports it (R73). -/
def Txn.SameRequest (awaited : Option Txn) (x y : Txn) : Prop :=
  y = x ∨ awaited = some x ∧ y = { x with performed := true }

/-- The same transactions, one by one. -/
abbrev SameRequests (awaited : Option Txn) (old new : List Txn) : Prop :=
  List.Forall₂ (Txn.SameRequest awaited) old new

/-- What the rules fix of the draws of a transaction requested at edge `e`, those in `old` having been requested before: it
completes within `APB_LATENCY` (R72), and once the boot order has been followed it is performed, unless another is or may
be in flight (R71, D39; log entries 11, 31, 32). -/
structure Txn.RequestedAt (x : Txn) (e : Nat) (old : List Txn) (t : Target) : Prop where
  issuedAt : x.issuedAt = e
  latency : x.latency ≤ Config.apbLatency
  performed : t.boot = .ready → (∀ y ∈ old, y.inFlightAt e = false) → t.mayBeBusy e = false → x.performed = true

/-- A 50-bit reply with this transaction's status and, for a READ, its value (R71). -/
structure Txn.ReportedBy (x : Txn) (reply : BitSeq) : Prop where
  status : frameStatus (valueOfBits reply) = x.status.toNat
  data : x.access = .read → frameData (valueOfBits reply) = x.value.toNat

/-- With this IR an update after a shift of `n` bits has an effect that is not known: another length than the register's
(I5), or a register not in source (I6). -/
abbrev UnknownUpdate (ir : BitVec 5) (n : Nat) : Prop :=
  ir ≠ Config.opcIdcode ∧ (ir = Config.opcApbControl → n ≠ 32) ∧ (ir = Config.opcApbAccess → n ≠ 50)

/-- With this IR an update after these `n` bits leaves the IR alone: the IDCODE chain or the control register is selected,
or a whole frame without the reserved operation was shifted (I3, R266). -/
abbrev KeepsIr (ir : BitVec 5) (n : Nat) (bits : BitSeq) : Prop :=
  ir = Config.opcIdcode ∨ ir = Config.opcApbControl ∨
    ir = Config.opcApbAccess ∧ n = 50 ∧ frameStatus (valueOfBits bits) ≠ 3

/-- What Update-DR at edge `e` does to the control register, the scans and the requests, as one goes from `t` to `u`, when
`n` bits were shifted since the capture and the register holds `reg` (R144, R184, R203 to R205); `old` are the transactions
requested before, and `h` is what was driven up to then. -/
structure Target.UpdatedDr (t u : Target) (old : List Txn) (n : Nat) (reg : BitSeq) (e h : Nat) : Prop where
  unknownAt : u.unknownAt = t.unknownAt
  /-- The IDCODE chain (log entry 20). -/
  idcode : t.ir = Config.opcIdcode →
    u.control = t.control ∧ u.scans = t.scans ∧ u.txns = old ∧ u.stray = t.stray
  /-- A control word (R184; log entries 19, 30, 31). -/
  control : t.ir = Config.opcApbControl → n = 32 →
    u.control = BitVec.ofNat 32 (valueOfBits reg) ∧ u.scans = t.scans ∧ u.txns = old ∧
      u.stray = if BitVec.ofNat 32 (valueOfBits reg) = 0#32 then t.stray else some e
  /-- A whole frame is one scan of R70. -/
  frame : t.ir = Config.opcApbAccess → n = 50 → frameStatus (valueOfBits reg) ≠ 3 →
    u.control = t.control ∧ u.scans = t.scans + 1 ∧ u.stray = t.stray
  /-- Operation code 0 requests nothing (R205). -/
  none : t.ir = Config.opcApbAccess → n = 50 → frameStatus (valueOfBits reg) = 0 → u.txns = old
  /-- Operation codes 1 and 2 request one transaction (R203, R204). -/
  request : t.ir = Config.opcApbAccess → n = 50 → ∀ access code, (access, code) ∈ [(Access.read, 1), (.write, 2)] →
    frameStatus (valueOfBits reg) = code →
    ∃ x, u.txns = old ++ [x] ∧ x.scan = t.scans + 1 ∧ x.access = access ∧
      x.address = BitVec.ofNat 16 (frameAddress (valueOfBits reg)) ∧
      x.data = BitVec.ofNat 32 (frameData (valueOfBits reg)) ∧ x.RequestedAt e old t
  /-- Operation code 3 (I3; log entries 19, 31). -/
  reserved : t.ir = Config.opcApbAccess → n = 50 → frameStatus (valueOfBits reg) = 3 →
    u.control = Config.freeControl h ∧ u.scans = t.scans + 1 ∧ u.txns = old ∧ u.stray = some e
  /-- An update of unknown effect (I5, I6, R266; log entries 19, 31). -/
  unknown : UnknownUpdate t.ir n →
    u.control = Config.freeControl h ∧ u.scans = t.scans ∧ u.txns = old ∧ u.stray = some e

/-- What such an update leaves of the IR (log entry 19), of the boot step (R262; log entry 11) and of the READ waited for
(R73; log entry 12). -/
structure Target.UpdatedStep (t u : Target) (n : Nat) (reg : BitSeq) (h : Nat) : Prop where
  keepsIr : KeepsIr t.ir n reg → u.ir = t.ir
  losesIr : ¬ KeepsIr t.ir n reg → u.ir = Config.freeIr h
  idcode : t.ir = Config.opcIdcode → u.boot = t.boot ∧ u.awaited = false
  control : t.ir = Config.opcApbControl → n = 32 → u.awaited = false ∧
    u.boot = if BitVec.ofNat 32 (valueOfBits reg) = 0#32 then if t.boot = .needControl then .ready else t.boot
      else .needReset
  frame : t.ir = Config.opcApbAccess → n = 50 → frameStatus (valueOfBits reg) ≠ 3 →
    u.boot = t.boot ∧ (u.awaited = true ↔ frameStatus (valueOfBits reg) = 1 ∧ t.boot = .ready)
  reserved : t.ir = Config.opcApbAccess → n = 50 → frameStatus (valueOfBits reg) = 3 →
    u.boot = .needReset ∧ u.awaited = false
  unknown : UnknownUpdate t.ir n → u.boot = .needReset ∧ u.awaited = false

end Sys2Proof.Machine
end

