-- ==== Sys2Proof/Certificates/Slice0/Obligations.lean ====
section
/-! DEFINITION. The statements for the provers. -/

open Sys2Proof Sys2Proof.Machine

/-! ## Power-up, steps, encodings -/

/-- R260: every field of the navigator at power-up, and the block "does nothing until the host calls an operation". -/
def Obligations.PowerUpStateAndIdleStep : Prop :=
  State.reset.tap = .unknown ∧ State.reset.tms = .undriven ∧ State.reset.tdi = .undriven ∧
    State.reset.edges = 0 ∧ State.reset.srIn = [] ∧ State.reset.srOut = [] ∧ State.reset.errors = [] ∧
    State.reset.calls = [] ∧ ∀ s : State, s.calls = [] → step s = .next s

/-- A step takes the host's next call and runs what it decodes to, the call taken and the index moved on; a call word
that is no operation is refused. -/
def Obligations.StepRunsDecodedCall : Prop :=
  ∀ (s : State) (c : CallWord) (rest : List CallWord), s.calls = c :: rest →
    (∀ i, decodeCall c = .ok i → step s = exec i { s with calls := rest, pc := s.pc + 1 }) ∧
      ∀ why, decodeCall c = .error why → step s = .refused (.notAnOperation why)

/-- Words written out from the encoding tables (R91, R95, R99) decode to the operations they stand for. -/
def Obligations.SpecWordsDecode : Prop :=
  decodeCall (.tmsSequence [(true, false), (true, false), (true, false), (true, false), (true, false)]) =
      .ok (.reset false) ∧
    decodeCall (.tmsSequence [(false, true), (true, true), (true, true), (false, true), (false, true)]) =
      .ok (.gotoShiftIr true) ∧
    decodeCall (.tmsSequence [(false, true), (false, false), (true, true)]) = .ok (.shift [true, false, true]) ∧
    decodeCall (.frame 0x4000000001) = .ok (.apbRead 0x0010 0) ∧
    decodeCall (.frame 0x40000003FE) = .ok (.apbWrite 0x0010 0xFF) ∧
    decodeCall (.frame 0x3) = .error .reservedOperation

/-- The decoder gives back every well-formed operation from its encoding, with every operand. -/
def Obligations.DecodeOfEncodeIsTheOperation : Prop :=
  ∀ i : Instr, i.wellFormed = true → decodeCall (encodeCall i) = .ok i

/-- A call word that decodes is the encoding of the operation it decodes to, which is well formed. -/
def Obligations.EncodeOfDecodeIsTheWord : Prop :=
  ∀ (c : CallWord) (i : Instr), decodeCall c = .ok i → encodeCall i = c ∧ i.wellFormed = true

/-! ## The invariant -/

/-- The invariant holds at power-up. -/
def Obligations.InvariantAtPowerUp : Prop := State.reset.Inv

/-- Every step keeps the invariant: operations begin and end at a boundary state (R154) with the shift register empty
(R38), and the transactions stay numbered by earlier scans (R70). -/
def Obligations.StepKeepsInvariant : Prop :=
  ∀ s t : State, s.Inv → step s = .next t → t.Inv

/-! ## The TAP -/

/-- The transition table of 41_tap_navigator.md, section 1: general knowledge to the spec (G1), log entry 26. -/
def Obligations.TapTransitionTable : Prop :=
  [TapState.tlr, .rti, .selDR, .capDR, .shiftDR, .exit1DR, .pauseDR, .exit2DR, .updateDR, .selIR, .capIR, .shiftIR,
      .exit1IR, .pauseIR, .exit2IR, .updateIR].map (fun q => (q.next false, q.next true)) =
    [(.rti, .tlr), (.rti, .selDR), (.capDR, .selIR), (.shiftDR, .exit1DR), (.shiftDR, .exit1DR),
      (.pauseDR, .updateDR), (.pauseDR, .exit2DR), (.shiftDR, .updateDR), (.rti, .selDR), (.capIR, .tlr),
      (.shiftIR, .exit1IR), (.shiftIR, .exit1IR), (.pauseIR, .updateIR), (.pauseIR, .exit2IR),
      (.shiftIR, .updateIR), (.rti, .selDR)]

/-- Five TMS-high edges reach TLR from every state, four do not, and TLR is the only state that TMS high keeps; the
number each state needs is the spec's derived list (41_tap_navigator.md, section 1). -/
def Obligations.FiveTmsHighEdgesReachTlr : Prop :=
  (∀ q : TapState, ((((q.next true).next true).next true).next true).next true = .tlr) ∧
    (∀ q : TapState, q.next true = q ↔ q = .tlr) ∧
    ((((TapState.shiftDR.next true).next true).next true).next true) ≠ .tlr

/-- The edge step (41_tap_navigator.md, section 1, decision D1): both lines are driven, the TAP takes one transition on
the driven TMS, the counter advances by one, and the sample is serial-out after the edge, which is the oracle's value
at the new edge number for every edge that does not leave Shift-DR, where the target register is shifted out. -/
def Obligations.EdgeStepDrivesAdvancesSamples : Prop :=
  ∀ (s : State) (m t : Bit), (s.edgeStep m t).tms = .driven m ∧ (s.edgeStep m t).tdi = .driven t ∧
    (s.edgeStep m t).tap = s.tap.next m ∧ (s.edgeStep m t).edges = s.edges + 1 ∧
    (s.tap ≠ .known .shiftDR →
      (s.edgeStep m t).sample = Config.tdo (s.edgeStep m t).target.history (s.edges + 1))

/-- R34, with R31's assignment by `reset` after its edges: an edge changes the TAP state to `Next` of the driven TMS; an
operation that makes no edge leaves the TAP state; and the codec calls, which make none, leave the lines, the edge count
and the target alone too. -/
def Obligations.TapChangesOnlyAtEdges : Prop :=
  (∀ s : State, ∀ m, s.tms = .driven m → s.edge.tap = s.tap.next m) ∧
    (∀ (i : Instr) (s t : State), exec i s = .next t →
      t.tap = s.tap ∧ t.edges = s.edges ∨ s.edges < t.edges) ∧
    ∀ (i : Instr) (s t : State), i.format = .function → exec i s = .next t → s.SameSignals t

/-- 10_state.md, decision D10: nothing but `reset` makes an unknown TAP state known. -/
def Obligations.OnlyResetMakesTapKnown : Prop :=
  ∀ (i : Instr) (s t : State), s.tap = .unknown → exec i s = .next t → (∀ tdi, i ≠ .reset tdi) → t.tap = .unknown

/-! ## The navigator's operations -/

/-- R146: `reset` completes from every state, and the target has passed Test-Logic-Reset; a Shift-DR entered now is entered
from there (log entry 33). -/
def Obligations.ResetCompletes : Prop :=
  ∀ (s : State) (tdi : Bit), ∃ t, exec (.reset tdi) s = .next t ∧ s.Drove t .tlr true tdi 5 ∧ s.SameShiftReg t ∧
    t.result = .nothing ∧ t.target.ir = Config.opcIdcode ∧ t.target.fromTlr = true

/-- 70_reset_and_hazards.md, sections 1 and 3, from the states whose path to TLR passes no Update-DR, and from an unknown
TAP state: `reset` leaves the transactions requested as they are, and from a known state the APB-control register too.
From an unknown one the requests stand by the model's choice, log entry 15, and it records that something may have reached
the APB bridge, log entry 32. That the boot order must be followed again is the model's choice, log entry 11. -/
def Obligations.ResetLeavesApbState : Prop :=
  ∀ (s t : State) (tdi : Bit),
    s.tap ∈ [.unknown, .known .tlr, .known .rti, .known .shiftIR, .known .exit1IR] → exec (.reset tdi) s = .next t →
    t.target.txns = s.target.txns ∧ t.target.scans = s.target.scans ∧ t.target.stray = s.target.stray ∧
      t.target.boot = .needControl ∧ t.target.awaited = false ∧
      (s.tap ≠ .unknown → t.target.control = s.target.control ∧ t.target.unknownAt = s.target.unknownAt) ∧
      (s.tap = .unknown → t.target.unknownAt = s.edges + 5)

/-- 70_reset_and_hazards.md, section 3: `reset` from Exit1-DR, and from Shift-DR after one more shift edge, passes
Update-DR, where what the selected register then holds takes effect: `Target.UpdatedDr` says what, register by register. A
whole frame is the request it encodes; after an update of unknown effect (a frame partly shifted among them) the requests
made before stand, from then on the target may have made one that no scan requested (the model's record of that, log entry
31), and the control register holds any value (I3, I5, I6). That the IDCODE chain's update does nothing is log entry 20,
that a word other than 0 stands in the control register log entry 19, that the requests stand log entries 19 and 30. -/
def Obligations.ResetPassesUpdateDr : Prop :=
  ∀ (s t : State) (tdi : Bit) (k n : Nat) (reg : BitSeq), exec (.reset tdi) s = .next t →
    (s.tap = .known .exit1DR ∧ k = 1 ∧ n = s.target.shifted ∧ reg = s.target.shiftReg ∨
      s.tap = .known .shiftDR ∧ k = 2 ∧ n = s.target.shifted + 1 ∧ reg = shiftIn s.target.shiftReg tdi) →
    s.target.UpdatedDr t.target s.target.txns n reg (s.edges + k)
        (s.driveEdges (heldAt (List.replicate k true) tdi)).target.history ∧
      t.target.boot = .needControl ∧ t.target.awaited = false

/-- R152: after a second `reset` the TAP is where one leaves it, Test-Logic-Reset. -/
def Obligations.ResetIsIdempotent : Prop :=
  ∀ (s t u : State) (a b : Bit), exec (.reset a) s = .next t → exec (.reset b) t = .next u →
    u.tap = t.tap ∧ u.tap = .known .tlr ∧ u.edges = t.edges + 5

/-- `goto_shift_ir` from TLR or RTI (41_tap_navigator.md, section 2; the sequence is the spec's decision D3). -/
def Obligations.GotoShiftIrCompletes : Prop :=
  ∀ (s : State) (tdi : Bit), s.tap.resetOrIdle = true → ∃ t, exec (.gotoShiftIr tdi) s = .next t ∧
    s.Drove t .shiftIR false tdi 5 ∧ s.SameShiftReg t ∧ t.result = .nothing ∧
    s.target.SameRegisters t.target

/-- `goto_shift_dr` from TLR or RTI (41_tap_navigator.md, section 2; the sequence is the spec's decision D3). The
transactions stay, but that the reply captured shows the READ waited for to have been performed (log entry 12). -/
def Obligations.GotoShiftDrCompletes : Prop :=
  ∀ (s : State) (tdi : Bit), s.tap.resetOrIdle = true → ∃ t, exec (.gotoShiftDr tdi) s = .next t ∧
    s.Drove t .shiftDR false tdi 4 ∧ s.SameShiftReg t ∧ t.result = .nothing ∧
    t.target.ir = s.target.ir ∧ t.target.control = s.target.control ∧ t.target.scans = s.target.scans ∧
    t.target.boot = s.target.boot ∧ t.target.fromTlr = s.target.fromTlr ∧
    SameRequests (s.target.awaitedRead (s.edges + 4)) s.target.txns t.target.txns

/-- `return_to_idle` from Exit1IR or Exit1DR (41_tap_navigator.md, section 2; the sequence is the spec's decision D3).
From Exit1IR the APB side is left alone and five bits shifted become the IR, another number leaves any value in it (I5).
From Exit1DR the shifted value takes effect at the first edge: `Target.UpdatedDr` and `Target.UpdatedStep` say how, register
by register (log entries 11, 12, 19, 20, 30, 31). A Shift-DR reached later is not entered from Test-Logic-Reset (log entry
33). -/
def Obligations.ReturnToIdleCompletes : Prop :=
  ∀ (s : State) (tdi : Bit), s.tap.exit1 = true → ∃ t, exec (.returnToIdle tdi) s = .next t ∧
    s.Drove t .rti false tdi 2 ∧ s.SameShiftReg t ∧ t.result = .nothing ∧ t.target.fromTlr = false ∧
    (s.tap = .known .exit1IR → t.target.control = s.target.control ∧ t.target.txns = s.target.txns ∧
      t.target.scans = s.target.scans ∧ t.target.boot = s.target.boot ∧ t.target.stray = s.target.stray ∧
      t.target.unknownAt = s.target.unknownAt ∧
      t.target.ir = if s.target.shifted = 5 then BitVec.ofNat 5 (valueOfBits s.target.shiftReg)
        else Config.freeIr (s.edgeStep true tdi).target.history) ∧
    (s.tap = .known .exit1DR →
      s.target.UpdatedDr t.target s.target.txns s.target.shifted s.target.shiftReg (s.edges + 1)
          (s.edgeStep true tdi).target.history ∧
        s.target.UpdatedStep t.target s.target.shifted s.target.shiftReg (s.edgeStep true tdi).target.history)

/-- `shift` of at least one bit in a Shift state (41_tap_navigator.md, section 2): one edge a bit, the samples of those
edges in order, the exit state of the register, and the shift register empty again. (`beginShift` is the model's form of
I5 and changes nothing for a shift as long as the register, log entry 29.) -/
def Obligations.ShiftCompletes : Prop :=
  ∀ (s : State) (bits : BitSeq) (h : bits ≠ []) (q : TapState),
    (s.tap = .known .shiftIR ∧ q = .exit1IR ∨ s.tap = .known .shiftDR ∧ q = .exit1DR) →
    ∃ t, exec (.shift bits) s = .next t ∧ s.Drove t q true (bits.getLast h) bits.length ∧ t.EmptyShiftReg ∧
      t.result = .bits (State.samples (shiftEdges bits) (s.beginShift bits.length)) ∧
      (State.samples (shiftEdges bits) (s.beginShift bits.length)).length = bits.length ∧
      s.target.SameRegisters t.target

/-- 41_tap_navigator.md, section 1 (general knowledge, G3, decision D1): right after a capture, a shift as long as the
register returns the captured register, bit 0 first. The IDCODE chain in a Shift-DR entered from Test-Logic-Reset
(10_state.md, section 2; log entry 33) is returned so by a shift of any length, and then a 0, whatever is shifted in (log
entry 13). For any other shift of another length I5 says any value, log entry 29. -/
def Obligations.ShiftReturnsCapturedBits : Prop :=
  ∀ (s t : State) (bits r : BitSeq), s.tap = .known .shiftDR → s.target.shifted = 0 →
    exec (.shift bits) s = .next t → t.result = .bits r →
    (bits.length = s.target.shiftReg.length ∨ s.target.ReadsIdcodes →
      ∀ i, i < bits.length → i < s.target.shiftReg.length → r[i]? = s.target.shiftReg[i]?) ∧
    (s.target.ReadsIdcodes → s.target.shiftReg.length < bits.length → r[s.target.shiftReg.length]? = some false)

/-- 30_encoding.md, section 5, with I2, I5 and I10: the samples that no rule fixes are `tdo`'s, each at its own edge number:
those of the IR; those of a shift whose length is not that of the selected register (log entry 29), but for the IDCODE
chain in a Shift-DR entered from Test-Logic-Reset; and there those after the end marker (log entry 13). `tdo` has no
definition, so this says that they may be any value, the captured bits among them; its first argument, what was driven so
far, is the model's (log entry 4). -/
def Obligations.UnfixedSamplesAreTheOracles : Prop :=
  ∀ (s t : State) (bits r : BitSeq) (i : Nat), i < bits.length →
    (s.tap = .known .shiftIR ∨
      s.tap = .known .shiftDR ∧ ¬ s.target.ReadsIdcodes ∧ bits.length ≠ s.target.shiftReg.length ∨
      s.tap = .known .shiftDR ∧ s.target.ReadsIdcodes ∧ s.target.shifted = 0 ∧ s.target.shiftReg.length < i) →
    exec (.shift bits) s = .next t → t.result = .bits r →
    r[i]? = some (Config.tdo (s.driveEdges ((shiftEdges bits).take (i + 1))).target.history (s.edges + i + 1))

/-- `wait(n)` where it is legal and the lines are as R154 says (41_tap_navigator.md, section 2, decision D12): `n` edges,
both lines held, the TAP state unchanged. In Run-Test/Idle the target's registers are unchanged too; in Test-Logic-Reset
its APB side is, while the IR is `OPC_IDCODE` and the boot order begins again (10_state.md, section 2; log entry 11). With
the TAP state unknown nothing is known of the registers, while the transactions requested stand, and the last edge of
unknown effect is recorded (log entries 15, 32). -/
def Obligations.WaitCompletes : Prop :=
  ∀ (s : State) (n : Nat),
    (s.tap = .unknown ∨ s.tap = .known .tlr ∧ s.tms = .driven true ∨ s.tap = .known .rti ∧ s.tms = .driven false) →
    ∃ t, exec (.wait n) s = .next t ∧ t.tap = s.tap ∧ t.tms = s.tms ∧ t.tdi = s.tdi ∧ t.edges = s.edges + n ∧
      s.SameRecord t ∧ s.SameShiftReg t ∧ t.result = .nothing ∧ t.target.txns = s.target.txns ∧
      t.target.scans = s.target.scans ∧ t.target.stray = s.target.stray ∧
      (n = 0 ∨ s.tap = .known .rti → s.target.SameRegisters t.target) ∧
      (s.tap = .known .tlr → t.target.control = s.target.control ∧ t.target.reports = s.target.reports ∧
        t.target.unknownAt = s.target.unknownAt ∧ (0 < n → t.target.ir = Config.opcIdcode ∧
          t.target.boot = .needControl ∧ t.target.awaited = false ∧ t.target.fromTlr = true)) ∧
      (s.tap = .unknown → 0 < n → t.target.unknownAt = s.edges + n ∧ t.target.boot = .needReset ∧
        t.target.awaited = false ∧ t.target.fromTlr = false)

/-! ## Errors -/

/-- 41_tap_navigator.md, section 1, and 60_exceptions.md, section 1 (decision D5): outside its legal states every
operation that drives edges, its arguments being in order, raises `ProtocolStateError` with the TAP state and does
nothing else. -/
def Obligations.IllegalStateRaises : Prop :=
  ∀ (s : State),
    (s.tap.resetOrIdle = false → ∀ i : Instr,
      (∃ d, i = .gotoShiftIr d ∨ i = .gotoShiftDr d) ∨
        (∃ b, b ≠ [] ∧ (i = .writeInstruction b ∨ i = .writeData b)) ∨
        i.format = .apbFrame50 ∨ i.format = .ir5 →
      exec i s = .next (s.raise .protocolStateError (.tap s.tap))) ∧
    (s.tap.exit1 = false → ∀ d, exec (.returnToIdle d) s = .next (s.raise .protocolStateError (.tap s.tap))) ∧
    (s.tap.shifting = false → ∀ b, b ≠ [] →
      exec (.shift b) s = .next (s.raise .protocolStateError (.tap s.tap))) ∧
    (s.tap.mayWait = false → ∀ n, exec (.wait n) s = .next (s.raise .protocolStateError (.tap s.tap)))

/-- 60_exceptions.md, section 1 (decisions D6, D7, D15): an empty Bit Sequence raises `DomainError` with its length, in
every state, before the state is looked at. -/
def Obligations.EmptySequenceRaises : Prop :=
  ∀ (s : State) (i : Instr), i ∈ [.shift [], .writeInstruction [], .writeData [], .valueOf []] →
    exec i s = .next (s.raise .domainError (.argument 0))

/-- 60_exceptions.md, section 1 (decisions D16, D17): every operation answers a next state; it raises no error, or its
only effect is that one error is appended and handed to the host. -/
def Obligations.ErrorsArePrecise : Prop :=
  ∀ (i : Instr) (s : State), ∃ t, exec i s = .next t ∧ t.calls = s.calls ∧ t.pc = s.pc ∧
    (t.errors = s.errors ∨ ∃ kind info, s.SameSignals t ∧ s.SameShiftReg t ∧
      t.errors = s.errors ++ [⟨kind, info⟩] ∧ t.result = .raised ⟨kind, info⟩)

/-- R233: a step adds no host error to the record. -/
def Obligations.BlockRaisesNoHostError : Prop :=
  ∀ (s t : State), step s = .next t → ∃ new, t.errors = s.errors ++ new ∧
    ∀ e ∈ new, e.kind ≠ .protocolTimeoutError ∧ e.kind ≠ .accessStatusError ∧ e.kind ≠ .timingInconsistencyError

/-- 10_state.md, decision D13: no step makes the edge counter smaller, and a step that changes the TAP state makes it
larger. -/
def Obligations.EdgeCounterOnlyAdvances : Prop :=
  ∀ (s t : State), step s = .next t → s.edges ≤ t.edges ∧ (t.tap ≠ s.tap → s.edges < t.edges)

/-! ## Encodings are what is driven -/

/-- 30_encoding.md, section 1: an operation of a TMS row that raises no error leaves the lines, the TAP state, the edge
count and the target exactly as driving the (TMS, TDI) pairs of its encoding does. (For `shift`, `beginShift` is the
model's form of I5 and changes nothing for a shift as long as the register, log entry 29.) -/
def Obligations.OperationDrivesItsEncoding : Prop :=
  ∀ (i : Instr) (es : List (Bit × Bit)) (s t : State), encodeCall i = .tmsSequence es → s.tap ≠ .unknown →
    exec i s = .next t → t.errors = s.errors →
    ((∀ bits, i ≠ .shift bits) → (s.driveEdges es).SameSignals t) ∧
      ∀ bits, i = .shift bits → ((s.beginShift bits.length).driveEdges es).SameSignals t

/-- R105: a scan operation is its three navigator operations, one after the other; `write_data` returns what its
`shift` returned. -/
def Obligations.ScanIsItsThreeParts : Prop :=
  ∀ (s : State) (bits : BitSeq), bits ≠ [] → s.tap.resetOrIdle = true →
    (∃ a b c, exec (.gotoShiftIr false) s = .next a ∧ exec (.shift bits) a = .next b ∧
      exec (.returnToIdle false) b = .next c ∧ exec (.writeInstruction bits) s = .next c) ∧
    (∃ a b c, exec (.gotoShiftDr false) s = .next a ∧ exec (.shift bits) a = .next b ∧
      exec (.returnToIdle false) b = .next c ∧ exec (.writeData bits) s = .next { c with result := b.result })

/-! ## Scans and the IR -/

/-- `write_instruction` of at least one bit from TLR or RTI (42_scan_operations.md): `n + 7` edges, back in idle; five
bits become the target's IR (general knowledge, G3), another number leaves any value in it (I5); the APB side is left
alone. -/
def Obligations.WriteInstructionCompletes : Prop :=
  ∀ (s : State) (bits : BitSeq), bits ≠ [] → s.tap.resetOrIdle = true →
    ∃ t, exec (.writeInstruction bits) s = .next t ∧ s.Drove t .rti false false (bits.length + 7) ∧
      t.EmptyShiftReg ∧ t.result = .nothing ∧
      (bits.length = 5 → t.target.ir = BitVec.ofNat 5 (valueOfBits bits)) ∧
      (bits.length ≠ 5 → t.target.ir = Config.freeIr
        (s.driveEdges (heldAt tmsGotoShiftIr false ++ shiftEdges bits ++ [(true, false)])).target.history) ∧
      t.target.control = s.target.control ∧ t.target.txns = s.target.txns ∧ t.target.scans = s.target.scans ∧
      t.target.boot = s.target.boot ∧ t.target.stray = s.target.stray ∧ t.target.unknownAt = s.target.unknownAt

/-- The three opcode rows from TLR or RTI: twelve edges, and the target's IR holds the opcode (30_encoding.md, section 2;
42_scan_operations.md). That `IR_IDCODE` may be written is the model's choice, log entry 16. -/
def Obligations.IrOpcodesComplete : Prop :=
  ∀ (s : State) (i : Instr) (opcode : BitVec 5), s.tap.resetOrIdle = true →
    (i, opcode) ∈ [(.irIdcode, Config.opcIdcode), (.irApbControl, Config.opcApbControl),
      (.irApbAccess, Config.opcApbAccess)] →
    ∃ t, exec i s = .next t ∧ s.Drove t .rti false false 12 ∧ t.EmptyShiftReg ∧ t.result = .nothing ∧
      t.target.ir = opcode ∧ t.target.control = s.target.control ∧ t.target.txns = s.target.txns ∧
      t.target.scans = s.target.scans ∧ t.target.boot = s.target.boot

/-- `write_data` of at least one bit from TLR or RTI (42_scan_operations.md): `n + 6` edges, back in idle, the samples
returned. The shifted value takes effect at the edge that enters Update-DR: `Target.UpdatedDr` and `Target.UpdatedStep` say
how, register by register (log entries 11, 12, 19, 20, 30, 31): a whole frame is one scan and what it requests, a 32-bit
control word is written, an update of unknown effect leaves any value. Of the transactions requested before only the READ
waited for can have changed, shown by this scan's capture to have been performed (log entry 12). -/
def Obligations.WriteDataCompletes : Prop :=
  ∀ (s : State) (bits : BitSeq), bits ≠ [] → s.tap.resetOrIdle = true →
    ∃ t old h, exec (.writeData bits) s = .next t ∧ s.Drove t .rti false false (bits.length + 6) ∧ t.EmptyShiftReg ∧
      t.result = .bits (State.samples (shiftEdges bits)
        ((s.driveEdges (heldAt tmsGotoShiftDr false)).beginShift bits.length)) ∧
      t.target.fromTlr = false ∧
      SameRequests (s.target.awaitedRead (s.edges + 4)) s.target.txns old ∧
      (s.target.ir ≠ Config.opcApbAccess → old = s.target.txns) ∧
      h = (s.driveEdges (heldAt tmsGotoShiftDr false ++ shiftEdges bits ++ [(true, false)])).target.history ∧
      s.target.UpdatedDr t.target old bits.length bits (s.edges + bits.length + 5) h ∧
      s.target.UpdatedStep t.target bits.length bits h

/-- 42_scan_operations.md (decision D27) and 10_state.md: with the control opcode in the IR, a 32-bit scan writes the
APB-control register, and the IR, the requested transactions and the scan count are left alone (log entries 19, 30). The
word 0 completes the boot step that a `reset` begins (70_reset_and_hazards.md, section 2; the record of that step is the
model's, log entry 11). After a word other than 0, whose effect I13 leaves open, the boot order must be followed again, and
that the register holds it is the model's choice (log entries 19, 31). -/
def Obligations.ControlScanWritesControl : Prop :=
  ∀ (s t : State) (word : Nat), s.tap.resetOrIdle = true → s.target.ir = Config.opcApbControl →
    exec (.writeData (bitsOfNat word 32)) s = .next t →
    t.target.control = BitVec.ofNat 32 word ∧ t.target.ir = s.target.ir ∧ t.target.txns = s.target.txns ∧
      t.target.scans = s.target.scans ∧
      (word % 2 ^ 32 = 0 → t.target.stray = s.target.stray ∧
        (s.target.boot = .needControl → t.target.boot = .ready) ∧
        (s.target.boot ≠ .needControl → t.target.boot = s.target.boot)) ∧
      (word % 2 ^ 32 ≠ 0 → t.target.stray = some (s.edges + 37) ∧ t.target.boot = .needReset)

/-- 70_reset_and_hazards.md, sections 2 and 4: boot steps 1, 3 and 4 from any state make 67 edges, end in idle with the
APB data register selected and the control register 0, and leave no error. -/
def Obligations.BootSequenceSelectsApbAccess : Prop :=
  ∀ (s a b c d : State) (tdi : Bit), exec (.reset tdi) s = .next a → exec .irApbControl a = .next b →
    exec (.writeData (bitsOfNat 0 32)) b = .next c → exec .irApbAccess c = .next d →
    s.Drove d .rti false false 67 ∧ d.target.ir = Config.opcApbAccess ∧ d.target.control = 0#32 ∧
      d.target.boot = .ready

/-- 10_state.md, section 2: after a `reset`, a scan of `32N + 1` bits over a chain of N devices returns the IDCODEs in
shift order, each LSB first with bit 0 set, and then a 0, whatever bits are shifted in (log entry 13). -/
def Obligations.IdcodeDiscovery : Prop :=
  (∀ c ∈ Config.idcodes, c.getLsbD 0 = true) ∧
    ∀ (s a b : State) (tdi : Bit) (bits : BitSeq), exec (.reset tdi) s = .next a →
      bits.length = 32 * Config.chain.length + 1 → exec (.writeData bits) a = .next b →
      b.result = .bits ((Config.idcodes.flatMap fun c => bitsOfNat c.toNat 32) ++ [false])

/-! ## Codecs -/

/-- R120: `bits_of` raises `DomainError` for a width of 0 or less and otherwise returns the sequence of exactly `width`
bits with bit `i` of the value at index `i`; nothing else changes. -/
def Obligations.BitsOfReturnsLsbFirst : Prop :=
  ∀ (s : State) (value : Nat) (width : Int),
    (width ≤ 0 → exec (.bitsOf value width) s = .next (s.raise .domainError (.argument width))) ∧
    (0 < width → ∃ b, exec (.bitsOf value width) s = .next { s with result := .bits b } ∧ (b.length : Int) = width ∧
      ∀ i (h : i < b.length), b[i].toNat = (value >>> i) &&& 1)

/-- 40_bit_codec.md: `value_of` of at least one bit returns the sum of the weights of the set bits, below `2^n`; nothing
else changes. -/
def Obligations.ValueOfReturnsWeightedSum : Prop :=
  ∀ (s : State) (bits : BitSeq), bits ≠ [] →
    ∃ v, exec (.valueOf bits) s = .next { s with result := .value v } ∧ v < 2 ^ bits.length ∧
      v = ∑ i : Fin bits.length, bits[i].toNat * 2 ^ i.val

/-- R122: `value_of` is the inverse of `bits_of` for every value representable in the width, and in general gives the
value modulo `2^w`. -/
def Obligations.BitCodecRoundTrip : Prop :=
  ∀ (s t u : State) (v w : Nat) (b : BitSeq), 1 ≤ w → exec (.bitsOf v w) s = .next t → t.result = .bits b →
    exec (.valueOf b) t = .next u → u.result = .value (v % 2 ^ w) ∧ (v < 2 ^ w → u.result = .value v)

/-- 40_bit_codec.md, derived there: `bits_of` of a sequence's value and length is the sequence. -/
def Obligations.BitCodecReverseRoundTrip : Prop :=
  ∀ (s t u : State) (b : BitSeq) (v : Nat), b ≠ [] → exec (.valueOf b) s = .next t → t.result = .value v →
    exec (.bitsOf v b.length) t = .next u → u.result = .bits b

/-- R96: what `encode` and `decode` return, in every state and for every operand; nothing else changes. -/
def Obligations.FrameAssembly : Prop :=
  ∀ (s : State) (address data raw : Nat) (op : ApbOp),
    exec (.encode address data op) s =
        .next { s with result := .value (((address &&& 0xFFFF) <<< 34) ||| ((data &&& 0xFFFFFFFF) <<< 2) ||| op.code) } ∧
      exec (.decode raw) s = .next { s with result := .reply ((raw >>> 2) &&& 0xFFFFFFFF) (raw &&& 0x3) }

/-- R97: the op field of a request frame is 0, 1 or 2 for None, Read, Write, and `encode` produces no other. -/
def Obligations.RequestOperationField : Prop :=
  ∀ (address data : Nat), frameStatus (encodeFrame address data .none) = 0 ∧
    frameStatus (encodeFrame address data .read) = 1 ∧ frameStatus (encodeFrame address data .write) = 2 ∧
    ∀ op : ApbOp, frameStatus (encodeFrame address data op) ≠ 3

/-- 43_apb_frame_codec.md, section 1, derived there: the frame is below `2^50`, `decode` gives back the masked data and
the operation code, the address field the masked address, and operands are taken modulo their widths. -/
def Obligations.FrameCodecLaws : Prop :=
  ∀ (address data : Nat) (op : ApbOp),
    encodeFrame address data op < 2 ^ 50 ∧
      frameData (encodeFrame address data op) = data % 2 ^ 32 ∧
      frameStatus (encodeFrame address data op) = op.code ∧
      frameAddress (encodeFrame address data op) = address % 2 ^ 16 ∧
      encodeFrame address data op = encodeFrame (address % 2 ^ 16) (data % 2 ^ 32) op

/-! ## Frames and the pairing of replies -/

/-- A NONE frame from TLR or RTI (43_apb_frame_codec.md, section 2): 56 edges, back in idle, the decoded reply
returned, the IR left alone unless its value is none of the three opcodes (log entry 19); with the APB data register
selected it is one scan and no transaction, whatever its ignored fields hold (decision D32, log entry 17); of the
transactions before it only the READ waited for can have changed (log entry 12).
The boot step and the records of unknown effect (log entries 11, 31, 32) are left alone. With another register selected it
counts no scan and requests no transaction. -/
def Obligations.ApbNoneCompletes : Prop :=
  ∀ (s : State) (address data : Nat), s.tap.resetOrIdle = true →
    ∃ t r, exec (.apbNone address data) s = .next t ∧ s.Drove t .rti false false 56 ∧ t.EmptyShiftReg ∧
      r.length = 50 ∧
      r = State.samples (shiftEdges (bitsOfNat (encodeFrame address data .none) 50))
        ((s.driveEdges (heldAt tmsGotoShiftDr false)).beginShift 50) ∧
      t.result = .reply (frameData (valueOfBits r)) (frameStatus (valueOfBits r)) ∧
      (s.target.ir ∈ [Config.opcIdcode, Config.opcApbControl, Config.opcApbAccess] → t.target.ir = s.target.ir) ∧
      (s.target.ir = Config.opcApbAccess → t.target.scans = s.target.scans + 1 ∧
        t.target.control = s.target.control ∧ t.target.boot = s.target.boot ∧ t.target.stray = s.target.stray ∧
        t.target.unknownAt = s.target.unknownAt ∧ t.target.awaited = false ∧
        SameRequests (s.target.awaitedRead (s.edges + 4)) s.target.txns t.target.txns) ∧
      (s.target.ir ≠ Config.opcApbAccess → t.target.scans = s.target.scans ∧ t.target.txns = s.target.txns)

/-- A READ frame from TLR or RTI (43_apb_frame_codec.md, section 2): 56 edges, back in idle, the decoded samples
returned, the IR left alone unless its value is none of the three opcodes (log entry 19); with the APB data register
selected it is one scan that requests one APB read of the address, whatever its data field holds (decision D32, log entry
17), and that is performed within `APB_LATENCY` edges, once the boot order has been followed, unless another is or may be in
flight (R71, R72, D39; log entries 11, 31, 32); of the transactions before it only the READ waited for can have changed
(log entry 12).
The boot step and the records of unknown effect (log entries 11, 31, 32) are left alone. With another register selected it
counts no scan and requests no transaction. -/
def Obligations.ApbReadCompletes : Prop :=
  ∀ (s : State) (address data : Nat), s.tap.resetOrIdle = true →
    ∃ t r, exec (.apbRead address data) s = .next t ∧ s.Drove t .rti false false 56 ∧ t.EmptyShiftReg ∧
      r.length = 50 ∧
      r = State.samples (shiftEdges (bitsOfNat (encodeFrame address data .read) 50))
        ((s.driveEdges (heldAt tmsGotoShiftDr false)).beginShift 50) ∧
      t.result = .reply (frameData (valueOfBits r)) (frameStatus (valueOfBits r)) ∧
      (s.target.ir ∈ [Config.opcIdcode, Config.opcApbControl, Config.opcApbAccess] → t.target.ir = s.target.ir) ∧
      (s.target.ir = Config.opcApbAccess → t.target.control = s.target.control ∧
        t.target.scans = s.target.scans + 1 ∧ t.target.boot = s.target.boot ∧ t.target.stray = s.target.stray ∧
        t.target.unknownAt = s.target.unknownAt ∧ (t.target.awaited = true ↔ s.target.boot = .ready) ∧
        ∃ old x, t.target.txns = old ++ [x] ∧ SameRequests (s.target.awaitedRead (s.edges + 4)) s.target.txns old ∧
          x.scan = s.target.scans + 1 ∧ x.access = .read ∧ x.address = BitVec.ofNat 16 address ∧
          x.RequestedAt (s.edges + 55) old s.target) ∧
      (s.target.ir ≠ Config.opcApbAccess → t.target.scans = s.target.scans ∧ t.target.txns = s.target.txns)

/-- R204: a WRITE frame from TLR or RTI: 56 edges, back in idle, the reply discarded, the IR left alone unless its value is
none of the three opcodes (log entry 19); with the APB data register selected it is one scan that requests one APB write of
the masked data to the masked address, issued after this scan's Update-DR, and performed within `APB_LATENCY` edges, once
the boot order has been followed, unless another is or may be in flight (R71, R72, D39; log entries 11, 31, 32); of the
transactions before it only the READ waited for can have changed (log entry 12).
The boot step and the records of unknown effect (log entries 11, 31, 32) are left alone. With another register selected it
counts no scan and requests no transaction. -/
def Obligations.ApbWriteCompletes : Prop :=
  ∀ (s : State) (address data : Nat), s.tap.resetOrIdle = true →
    ∃ t, exec (.apbWrite address data) s = .next t ∧ s.Drove t .rti false false 56 ∧ t.EmptyShiftReg ∧
      t.result = .nothing ∧
      (s.target.ir ∈ [Config.opcIdcode, Config.opcApbControl, Config.opcApbAccess] → t.target.ir = s.target.ir) ∧
      (s.target.ir = Config.opcApbAccess → t.target.control = s.target.control ∧
        t.target.scans = s.target.scans + 1 ∧ t.target.boot = s.target.boot ∧ t.target.stray = s.target.stray ∧
        t.target.unknownAt = s.target.unknownAt ∧ t.target.awaited = false ∧
        ∃ old x, t.target.txns = old ++ [x] ∧ SameRequests (s.target.awaitedRead (s.edges + 4)) s.target.txns old ∧
          x.scan = s.target.scans + 1 ∧ x.access = .write ∧ x.address = BitVec.ofNat 16 (address &&& 0xFFFF) ∧
          x.data = BitVec.ofNat 32 (data &&& 0xFFFFFFFF) ∧ x.RequestedAt (s.edges + 55) old s.target) ∧
      (s.target.ir ≠ Config.opcApbAccess → t.target.scans = s.target.scans ∧ t.target.txns = s.target.txns)

/-- 43_apb_frame_codec.md, section 2 (decision D9): a frame operation takes its operands modulo their widths. -/
def Obligations.FrameOperandsAreMasked : Prop :=
  ∀ (s : State) (address data : Nat),
    exec (.apbNone address data) s = exec (.apbNone (address % 2 ^ 16) (data % 2 ^ 32)) s ∧
      exec (.apbRead address data) s = exec (.apbRead (address % 2 ^ 16) (data % 2 ^ 32)) s ∧
      exec (.apbWrite address data) s = exec (.apbWrite (address % 2 ^ 16) (data % 2 ^ 32)) s

/-- 20_memory.md, section 3: the reply that scan `k` of the APB data register shifts out reports a transaction of an
earlier scan that has completed by the scan's capture edge (the fourth), with that transaction's status and, for a READ,
its value; or none has completed. The READ waited for is the one reported (log entry 12). After an update of unknown
effect the one reported may be one that no scan requested, until a scan's transaction has surely completed after it (log
entry 31). The law holds once the host has followed the boot order (70_reset_and_hazards.md, section 2; log entry 11). -/
def Obligations.ReplyPairing : Prop :=
  ∀ (s t : State) (bits : BitSeq), s.target.WellNumbered s.edges → s.tap.resetOrIdle = true →
    s.target.ir = Config.opcApbAccess → s.target.boot = .ready → bits.length = 50 →
    exec (.writeData bits) s = .next t → ∃ r, t.result = .bits r ∧ r.length = 50 ∧
      (∀ x, s.target.awaitedRead (s.edges + 4) = some x → x.ReportedBy r) ∧
      ((∃ x ∈ s.target.txns, x.scan < s.target.scans + 1 ∧
          (x.completedBy (s.edges + 4) = true ∨ s.target.awaitedRead (s.edges + 4) = some x) ∧ x.ReportedBy r) ∨
        (∀ x ∈ s.target.txns, x.completedBy (s.edges + 4) = false) ∨
        ∃ i, s.target.stray = some i ∧ ∀ x ∈ s.target.txns, x.completedBy (s.edges + 4) = true →
          x.issuedAt + x.latency < i + Config.apbLatency)

/-- 20_memory.md, section 3 (decisions D28, D38; read as log entry 12 says): a READ scan, a wait of at least `APB_LATENCY`
edges and any further 50-bit scan: the last reply reports that READ, with the value and the status the target returned for
it, whatever the READ's data field held (decision D32, log entry 17). -/
def Obligations.SynchronousRead : Prop :=
  ∀ (s a b c : State) (address data n : Nat) (bits : BitSeq), s.tap.resetOrIdle = true →
    s.target.ir = Config.opcApbAccess → s.target.boot = .ready → Config.apbLatency ≤ n → bits.length = 50 →
    exec (.apbRead address data) s = .next a → exec (.wait n) a = .next b → exec (.writeData bits) b = .next c →
    ∃ x r, a.target.txns.getLast? = some x ∧ x.access = .read ∧ x.scan = s.target.scans + 1 ∧
      x.address = BitVec.ofNat 16 address ∧ c.result = .bits r ∧ r.length = 50 ∧
      frameData (valueOfBits r) = x.value.toNat ∧ frameStatus (valueOfBits r) = x.status.toNat

/-- 93_implementation_defined.md, I3: after a 50-bit scan with operation code 3 the boot order must be followed again, and
the target may have made requests that no scan made; the requests before it stand, but that the READ waited for may be known
to have been performed (log entries 12, 19, 31). Its IR and control register hold any value: the free values of what was
driven up to the edge that enters Update-DR (log entries 4, 19). -/
def Obligations.ReservedOperationLosesState : Prop :=
  ∀ (s t : State) (bits : BitSeq) (h : Nat), s.tap.resetOrIdle = true → s.target.ir = Config.opcApbAccess →
    bits.length = 50 → frameStatus (valueOfBits bits) = 3 → exec (.writeData bits) s = .next t →
    h = (s.driveEdges (heldAt tmsGotoShiftDr false ++ shiftEdges bits ++ [(true, false)])).target.history →
    t.target.ir = Config.freeIr h ∧ t.target.control = Config.freeControl h ∧
      t.target.boot = .needReset ∧ t.target.awaited = false ∧ t.target.stray = some (s.edges + 55) ∧
      t.target.scans = s.target.scans + 1 ∧
      SameRequests (s.target.awaitedRead (s.edges + 4)) s.target.txns t.target.txns

/-- 43_apb_frame_codec.md, section 2: each frame row is `write_data` of its 50 bits, with the reply decoded for NONE and READ
and dropped for WRITE, and raises what `write_data` raises. -/
def Obligations.FrameRowsAreWriteData : Prop :=
  ∀ (s : State) (address data : Nat) (op : ApbOp) (i : Instr),
    (op, i) ∈ [(.none, .apbNone address data), (.read, .apbRead address data), (.write, .apbWrite address data)] →
    (s.tap.resetOrIdle = true →
      ∃ t r, exec (.writeData (bitsOfNat (encodeFrame address data op) 50)) s = .next t ∧ t.result = .bits r ∧
        exec i s = .next { t with
          result := if op = .write then .nothing
            else .reply (frameData (valueOfBits r)) (frameStatus (valueOfBits r)) }) ∧
    (s.tap.resetOrIdle = false → exec i s = exec (.writeData (bitsOfNat (encodeFrame address data op) 50)) s)
end

