-- ==== Sys2Proof/Laws/Codec.lean ====
section
/-! SUPPORT. The small lemmas of the bit codec, the frame and the TMS sequences. -/

namespace Sys2Proof.Machine

/-! Bit Sequences. -/

@[simp] theorem bitsOfNat_zero (v : Nat) : bitsOfNat v 0 = [] := rfl

@[simp] theorem bitsOfNat_length (v w : Nat) : (bitsOfNat v w).length = w := by
  simp [bitsOfNat]

@[simp] theorem bitsOfNat_getElem (v w i : Nat) (h : i < (bitsOfNat v w).length) :
    (bitsOfNat v w)[i] = v.testBit i := by
  simp [bitsOfNat]

theorem bitsOfNat_succ (v w : Nat) :
    bitsOfNat v (w + 1) = v.testBit 0 :: bitsOfNat (v / 2) w := by
  simp [bitsOfNat, List.range_succ_eq_map, Function.comp_def, Nat.testBit_succ]

@[simp] theorem valueOfBits_nil : valueOfBits [] = 0 := rfl

@[simp] theorem valueOfBits_cons (b : Bit) (bs : BitSeq) :
    valueOfBits (b :: bs) = b.toNat + 2 * valueOfBits bs := rfl

theorem valueOfBits_lt (bs : BitSeq) : valueOfBits bs < 2 ^ bs.length := by
  induction bs with
  | nil => simp
  | cons b bs ih =>
    have : b.toNat < 2 := b.toNat_lt
    simp only [valueOfBits_cons, List.length_cons, Nat.pow_succ]
    omega

/-! The frame: its three fields are disjoint (R200). -/

theorem apbOp_code_lt (op : ApbOp) : op.code < 4 := by
  cases op <;> decide

theorem encodeFrame_eq (a d : Nat) (op : ApbOp) :
    encodeFrame a d op = (a % 2 ^ 16) * 2 ^ 34 + (d % 2 ^ 32) * 2 ^ 2 + op.code := by
  have ha : a &&& 0xFFFF = a % 2 ^ 16 := Nat.and_two_pow_sub_one_eq_mod a 16
  have hd : d &&& 0xFFFFFFFF = d % 2 ^ 32 := Nat.and_two_pow_sub_one_eq_mod d 32
  have hop := apbOp_code_lt op
  have hlt : d % 2 ^ 32 < 2 ^ 32 := Nat.mod_lt _ (by decide)
  have hlow : (d % 2 ^ 32) <<< 2 ||| op.code = (d % 2 ^ 32) <<< 2 + op.code :=
    (Nat.shiftLeft_add_eq_or_of_lt (by omega) _).symm
  have hhigh : (a % 2 ^ 16) <<< 34 ||| ((d % 2 ^ 32) <<< 2 + op.code) =
      (a % 2 ^ 16) <<< 34 + ((d % 2 ^ 32) <<< 2 + op.code) := by
    refine (Nat.shiftLeft_add_eq_or_of_lt ?_ _).symm
    simp only [Nat.shiftLeft_eq]
    omega
  simp only [encodeFrame, ha, hd, Nat.or_assoc]
  rw [hlow, hhigh, Nat.shiftLeft_eq, Nat.shiftLeft_eq]
  omega

theorem frameFieldsFit_iff (a d : Nat) :
    frameFieldsFit a d = true ↔ a < 2 ^ 16 ∧ d < 2 ^ 32 := by
  simp [frameFieldsFit, Config.addrW, Config.dataW]

theorem frameData_eq (raw : Nat) : frameData raw = raw / 2 ^ 2 % 2 ^ 32 := by
  simp only [frameData, Nat.shiftRight_eq_div_pow]
  exact Nat.and_two_pow_sub_one_eq_mod _ 32

theorem frameStatus_eq (raw : Nat) : frameStatus raw = raw % 2 ^ 2 :=
  Nat.and_two_pow_sub_one_eq_mod _ 2

theorem frameAddress_eq (raw : Nat) : frameAddress raw = raw / 2 ^ 34 % 2 ^ 16 := by
  simp only [frameAddress, Nat.shiftRight_eq_div_pow]
  exact Nat.and_two_pow_sub_one_eq_mod _ 16

@[simp] theorem decodeOp_code (op : ApbOp) : decodeOp op.code = some op := by
  cases op <;> rfl

theorem decodeOp_eq_some {n : Nat} {op : ApbOp} (h : decodeOp n = some op) : op.code = n := by
  unfold decodeOp at h
  split at h <;> cases h <;> rfl

/-! TMS sequences (R91). -/

@[simp] theorem tmsShift_length (n : Nat) : (tmsShift n).length = n := by
  cases n <;> simp [tmsShift]

theorem tmsShift_succ (n : Nat) : tmsShift (n + 1) = (n == 0) :: tmsShift n := by
  cases n with
  | zero => rfl
  | succ n => simp [tmsShift, List.replicate_succ]

@[simp] theorem heldAt_length (tms : BitSeq) (t : Bit) : (heldAt tms t).length = tms.length := by
  simp [heldAt]

@[simp] theorem heldAt_tms (tms : BitSeq) (t : Bit) : (heldAt tms t).map Prod.fst = tms := by
  simp [heldAt, Function.comp_def]

@[simp] theorem heldAt_tdi (tms : BitSeq) (t : Bit) :
    (heldAt tms t).map Prod.snd = List.replicate tms.length t := by
  simp [heldAt, Function.comp_def]

@[simp] theorem shiftEdges_nil : shiftEdges [] = [] := rfl

theorem shiftEdges_cons (b : Bit) (bs : BitSeq) :
    shiftEdges (b :: bs) = (bs.isEmpty, b) :: shiftEdges bs := by
  cases bs <;> simp [shiftEdges, tmsShift_succ]

@[simp] theorem shiftEdges_length (bs : BitSeq) : (shiftEdges bs).length = bs.length := by
  simp [shiftEdges]

@[simp] theorem shiftEdges_tms (bs : BitSeq) : (shiftEdges bs).map Prod.fst = tmsShift bs.length :=
  List.map_fst_zip (by simp)

@[simp] theorem shiftEdges_tdi (bs : BitSeq) : (shiftEdges bs).map Prod.snd = bs :=
  List.map_snd_zip (by simp)

end Sys2Proof.Machine
end

