-- ==== Sys2Proof/Laws/State.lean ====
section
/-! SUPPORT. One lemma per field per update of the state and of the target, true by unfolding, so that no proof unfolds a record update. -/

namespace Sys2Proof.Machine

/-! Updates of the state. -/

@[simp] theorem State.drive_tap (s : State) (m t : Bit) : (s.drive m t).tap = s.tap := rfl
@[simp] theorem State.drive_tms (s : State) (m t : Bit) : (s.drive m t).tms = .driven m := rfl
@[simp] theorem State.drive_tdi (s : State) (m t : Bit) : (s.drive m t).tdi = .driven t := rfl
@[simp] theorem State.drive_edges (s : State) (m t : Bit) : (s.drive m t).edges = s.edges := rfl
@[simp] theorem State.drive_srIn (s : State) (m t : Bit) : (s.drive m t).srIn = s.srIn := rfl
@[simp] theorem State.drive_srOut (s : State) (m t : Bit) : (s.drive m t).srOut = s.srOut := rfl
@[simp] theorem State.drive_errors (s : State) (m t : Bit) : (s.drive m t).errors = s.errors := rfl
@[simp] theorem State.drive_target (s : State) (m t : Bit) : (s.drive m t).target = s.target := rfl
@[simp] theorem State.drive_calls (s : State) (m t : Bit) : (s.drive m t).calls = s.calls := rfl
@[simp] theorem State.drive_pc (s : State) (m t : Bit) : (s.drive m t).pc = s.pc := rfl
@[simp] theorem State.drive_result (s : State) (m t : Bit) : (s.drive m t).result = s.result := rfl

@[simp] theorem State.edge_tap (s : State) : (s.edge).tap = s.tap.afterEdge s.tms := rfl
@[simp] theorem State.edge_tms (s : State) : (s.edge).tms = s.tms := rfl
@[simp] theorem State.edge_tdi (s : State) : (s.edge).tdi = s.tdi := rfl
@[simp] theorem State.edge_edges (s : State) : (s.edge).edges = s.edges + 1 := rfl
@[simp] theorem State.edge_srIn (s : State) : (s.edge).srIn = s.srIn := rfl
@[simp] theorem State.edge_srOut (s : State) : (s.edge).srOut = s.srOut := rfl
@[simp] theorem State.edge_errors (s : State) : (s.edge).errors = s.errors := rfl
@[simp] theorem State.edge_target (s : State) : (s.edge).target = s.target.edge s.tap (s.tap.afterEdge s.tms) s.tms s.tdi (s.edges + 1) := rfl
@[simp] theorem State.edge_calls (s : State) : (s.edge).calls = s.calls := rfl
@[simp] theorem State.edge_pc (s : State) : (s.edge).pc = s.pc := rfl
@[simp] theorem State.edge_result (s : State) : (s.edge).result = s.result := rfl

@[simp] theorem State.edgeStep_tap (s : State) (m t : Bit) : (s.edgeStep m t).tap = s.tap.next m := rfl
@[simp] theorem State.edgeStep_tms (s : State) (m t : Bit) : (s.edgeStep m t).tms = .driven m := rfl
@[simp] theorem State.edgeStep_tdi (s : State) (m t : Bit) : (s.edgeStep m t).tdi = .driven t := rfl
@[simp] theorem State.edgeStep_edges (s : State) (m t : Bit) : (s.edgeStep m t).edges = s.edges + 1 := rfl
@[simp] theorem State.edgeStep_srIn (s : State) (m t : Bit) : (s.edgeStep m t).srIn = s.srIn := rfl
@[simp] theorem State.edgeStep_srOut (s : State) (m t : Bit) : (s.edgeStep m t).srOut = s.srOut := rfl
@[simp] theorem State.edgeStep_errors (s : State) (m t : Bit) : (s.edgeStep m t).errors = s.errors := rfl
@[simp] theorem State.edgeStep_target (s : State) (m t : Bit) : (s.edgeStep m t).target = s.target.edge s.tap (s.tap.next m) (.driven m) (.driven t) (s.edges + 1) := rfl
@[simp] theorem State.edgeStep_calls (s : State) (m t : Bit) : (s.edgeStep m t).calls = s.calls := rfl
@[simp] theorem State.edgeStep_pc (s : State) (m t : Bit) : (s.edgeStep m t).pc = s.pc := rfl
@[simp] theorem State.edgeStep_result (s : State) (m t : Bit) : (s.edgeStep m t).result = s.result := rfl

@[simp] theorem State.returns_tap (s : State) (r : Result) : (s.returns r).tap = s.tap := rfl
@[simp] theorem State.returns_tms (s : State) (r : Result) : (s.returns r).tms = s.tms := rfl
@[simp] theorem State.returns_tdi (s : State) (r : Result) : (s.returns r).tdi = s.tdi := rfl
@[simp] theorem State.returns_edges (s : State) (r : Result) : (s.returns r).edges = s.edges := rfl
@[simp] theorem State.returns_srIn (s : State) (r : Result) : (s.returns r).srIn = s.srIn := rfl
@[simp] theorem State.returns_srOut (s : State) (r : Result) : (s.returns r).srOut = s.srOut := rfl
@[simp] theorem State.returns_errors (s : State) (r : Result) : (s.returns r).errors = s.errors := rfl
@[simp] theorem State.returns_target (s : State) (r : Result) : (s.returns r).target = s.target := rfl
@[simp] theorem State.returns_calls (s : State) (r : Result) : (s.returns r).calls = s.calls := rfl
@[simp] theorem State.returns_pc (s : State) (r : Result) : (s.returns r).pc = s.pc := rfl
@[simp] theorem State.returns_result (s : State) (r : Result) : (s.returns r).result = r := rfl

@[simp] theorem State.raise_tap (s : State) (k : ErrorKind) (i : ErrorInfo) : (s.raise k i).tap = s.tap := rfl
@[simp] theorem State.raise_tms (s : State) (k : ErrorKind) (i : ErrorInfo) : (s.raise k i).tms = s.tms := rfl
@[simp] theorem State.raise_tdi (s : State) (k : ErrorKind) (i : ErrorInfo) : (s.raise k i).tdi = s.tdi := rfl
@[simp] theorem State.raise_edges (s : State) (k : ErrorKind) (i : ErrorInfo) : (s.raise k i).edges = s.edges := rfl
@[simp] theorem State.raise_srIn (s : State) (k : ErrorKind) (i : ErrorInfo) : (s.raise k i).srIn = s.srIn := rfl
@[simp] theorem State.raise_srOut (s : State) (k : ErrorKind) (i : ErrorInfo) : (s.raise k i).srOut = s.srOut := rfl
@[simp] theorem State.raise_errors (s : State) (k : ErrorKind) (i : ErrorInfo) : (s.raise k i).errors = s.errors ++ [⟨k, i⟩] := rfl
@[simp] theorem State.raise_target (s : State) (k : ErrorKind) (i : ErrorInfo) : (s.raise k i).target = s.target := rfl
@[simp] theorem State.raise_calls (s : State) (k : ErrorKind) (i : ErrorInfo) : (s.raise k i).calls = s.calls := rfl
@[simp] theorem State.raise_pc (s : State) (k : ErrorKind) (i : ErrorInfo) : (s.raise k i).pc = s.pc := rfl
@[simp] theorem State.raise_result (s : State) (k : ErrorKind) (i : ErrorInfo) : (s.raise k i).result = .raised ⟨k, i⟩ := rfl

@[simp] theorem State.withCall_tap (s : State) (c : CallWord) : (s.withCall c).tap = s.tap := rfl
@[simp] theorem State.withCall_tms (s : State) (c : CallWord) : (s.withCall c).tms = s.tms := rfl
@[simp] theorem State.withCall_tdi (s : State) (c : CallWord) : (s.withCall c).tdi = s.tdi := rfl
@[simp] theorem State.withCall_edges (s : State) (c : CallWord) : (s.withCall c).edges = s.edges := rfl
@[simp] theorem State.withCall_srIn (s : State) (c : CallWord) : (s.withCall c).srIn = s.srIn := rfl
@[simp] theorem State.withCall_srOut (s : State) (c : CallWord) : (s.withCall c).srOut = s.srOut := rfl
@[simp] theorem State.withCall_errors (s : State) (c : CallWord) : (s.withCall c).errors = s.errors := rfl
@[simp] theorem State.withCall_target (s : State) (c : CallWord) : (s.withCall c).target = s.target := rfl
@[simp] theorem State.withCall_calls (s : State) (c : CallWord) : (s.withCall c).calls = c :: s.calls := rfl
@[simp] theorem State.withCall_pc (s : State) (c : CallWord) : (s.withCall c).pc = s.pc := rfl
@[simp] theorem State.withCall_result (s : State) (c : CallWord) : (s.withCall c).result = s.result := rfl

@[simp] theorem State.resetSequence_tap (s : State) (tdi : Bit) : (s.resetSequence tdi).tap = .known .tlr := rfl
@[simp] theorem State.resetSequence_tms (s : State) (tdi : Bit) : (s.resetSequence tdi).tms = (s.driveEdges (heldAt tmsReset tdi)).tms := rfl
@[simp] theorem State.resetSequence_tdi (s : State) (tdi : Bit) : (s.resetSequence tdi).tdi = (s.driveEdges (heldAt tmsReset tdi)).tdi := rfl
@[simp] theorem State.resetSequence_edges (s : State) (tdi : Bit) : (s.resetSequence tdi).edges = (s.driveEdges (heldAt tmsReset tdi)).edges := rfl
@[simp] theorem State.resetSequence_srIn (s : State) (tdi : Bit) : (s.resetSequence tdi).srIn = (s.driveEdges (heldAt tmsReset tdi)).srIn := rfl
@[simp] theorem State.resetSequence_srOut (s : State) (tdi : Bit) : (s.resetSequence tdi).srOut = (s.driveEdges (heldAt tmsReset tdi)).srOut := rfl
@[simp] theorem State.resetSequence_errors (s : State) (tdi : Bit) : (s.resetSequence tdi).errors = (s.driveEdges (heldAt tmsReset tdi)).errors := rfl
@[simp] theorem State.resetSequence_target (s : State) (tdi : Bit) : (s.resetSequence tdi).target = (s.driveEdges (heldAt tmsReset tdi)).target.enterTlr := rfl
@[simp] theorem State.resetSequence_calls (s : State) (tdi : Bit) : (s.resetSequence tdi).calls = (s.driveEdges (heldAt tmsReset tdi)).calls := rfl
@[simp] theorem State.resetSequence_pc (s : State) (tdi : Bit) : (s.resetSequence tdi).pc = (s.driveEdges (heldAt tmsReset tdi)).pc := rfl
@[simp] theorem State.resetSequence_result (s : State) (tdi : Bit) : (s.resetSequence tdi).result = (s.driveEdges (heldAt tmsReset tdi)).result := rfl
@[simp] theorem State.setShiftReg_tap (s : State) (i o : BitSeq) : (s.setShiftReg i o).tap = s.tap := rfl
@[simp] theorem State.setShiftReg_tms (s : State) (i o : BitSeq) : (s.setShiftReg i o).tms = s.tms := rfl
@[simp] theorem State.setShiftReg_tdi (s : State) (i o : BitSeq) : (s.setShiftReg i o).tdi = s.tdi := rfl
@[simp] theorem State.setShiftReg_edges (s : State) (i o : BitSeq) : (s.setShiftReg i o).edges = s.edges := rfl
@[simp] theorem State.setShiftReg_srIn (s : State) (i o : BitSeq) : (s.setShiftReg i o).srIn = i := rfl
@[simp] theorem State.setShiftReg_srOut (s : State) (i o : BitSeq) : (s.setShiftReg i o).srOut = o := rfl
@[simp] theorem State.setShiftReg_errors (s : State) (i o : BitSeq) : (s.setShiftReg i o).errors = s.errors := rfl
@[simp] theorem State.setShiftReg_target (s : State) (i o : BitSeq) : (s.setShiftReg i o).target = s.target := rfl
@[simp] theorem State.setShiftReg_calls (s : State) (i o : BitSeq) : (s.setShiftReg i o).calls = s.calls := rfl
@[simp] theorem State.setShiftReg_pc (s : State) (i o : BitSeq) : (s.setShiftReg i o).pc = s.pc := rfl
@[simp] theorem State.setShiftReg_result (s : State) (i o : BitSeq) : (s.setShiftReg i o).result = s.result := rfl

@[simp] theorem State.beginShift_tap (s : State) (n : Nat) : (s.beginShift n).tap = s.tap := rfl
@[simp] theorem State.beginShift_tms (s : State) (n : Nat) : (s.beginShift n).tms = s.tms := rfl
@[simp] theorem State.beginShift_tdi (s : State) (n : Nat) : (s.beginShift n).tdi = s.tdi := rfl
@[simp] theorem State.beginShift_edges (s : State) (n : Nat) : (s.beginShift n).edges = s.edges := rfl
@[simp] theorem State.beginShift_srIn (s : State) (n : Nat) : (s.beginShift n).srIn = s.srIn := rfl
@[simp] theorem State.beginShift_srOut (s : State) (n : Nat) : (s.beginShift n).srOut = s.srOut := rfl
@[simp] theorem State.beginShift_errors (s : State) (n : Nat) : (s.beginShift n).errors = s.errors := rfl
@[simp] theorem State.beginShift_calls (s : State) (n : Nat) : (s.beginShift n).calls = s.calls := rfl
@[simp] theorem State.beginShift_pc (s : State) (n : Nat) : (s.beginShift n).pc = s.pc := rfl
@[simp] theorem State.beginShift_result (s : State) (n : Nat) : (s.beginShift n).result = s.result := rfl
@[simp] theorem State.beginShift_target (s : State) (n : Nat) : (s.beginShift n).target = s.target.beginShift n := rfl

@[simp] theorem State.setShiftReg_setShiftReg (s : State) (i o i' o' : BitSeq) :
    (s.setShiftReg i o).setShiftReg i' o' = s.setShiftReg i' o' := rfl

/-! Updates of the target. -/

@[simp] theorem Target.record_ir (t : Target) (m d : Line) : (t.record m d).ir = t.ir := rfl
@[simp] theorem Target.record_control (t : Target) (m d : Line) : (t.record m d).control = t.control := rfl
@[simp] theorem Target.record_shiftReg (t : Target) (m d : Line) : (t.record m d).shiftReg = t.shiftReg := rfl
@[simp] theorem Target.record_shifted (t : Target) (m d : Line) : (t.record m d).shifted = t.shifted := rfl
@[simp] theorem Target.record_tdo (t : Target) (m d : Line) : (t.record m d).tdo = t.tdo := rfl
@[simp] theorem Target.record_scans (t : Target) (m d : Line) : (t.record m d).scans = t.scans := rfl
@[simp] theorem Target.record_txns (t : Target) (m d : Line) : (t.record m d).txns = t.txns := rfl
@[simp] theorem Target.record_awaited (t : Target) (m d : Line) : (t.record m d).awaited = t.awaited := rfl
@[simp] theorem Target.record_reports (t : Target) (m d : Line) : (t.record m d).reports = t.reports := rfl
@[simp] theorem Target.record_boot (t : Target) (m d : Line) : (t.record m d).boot = t.boot := rfl
@[simp] theorem Target.record_stray (t : Target) (m d : Line) : (t.record m d).stray = t.stray := rfl
@[simp] theorem Target.record_unknownAt (t : Target) (m d : Line) : (t.record m d).unknownAt = t.unknownAt := rfl
@[simp] theorem Target.record_fromTlr (t : Target) (m d : Line) : (t.record m d).fromTlr = t.fromTlr := rfl
@[simp] theorem Target.record_history (t : Target) (m d : Line) : (t.record m d).history = t.history * 9 + (3 * m.code + d.code) + 1 := rfl

@[simp] theorem Target.loseApb_ir (t : Target) (e : Nat) : (t.loseApb e).ir = t.ir := rfl
@[simp] theorem Target.loseApb_control (t : Target) (e : Nat) : (t.loseApb e).control = t.control := rfl
@[simp] theorem Target.loseApb_shiftReg (t : Target) (e : Nat) : (t.loseApb e).shiftReg = t.shiftReg := rfl
@[simp] theorem Target.loseApb_shifted (t : Target) (e : Nat) : (t.loseApb e).shifted = t.shifted := rfl
@[simp] theorem Target.loseApb_tdo (t : Target) (e : Nat) : (t.loseApb e).tdo = t.tdo := rfl
@[simp] theorem Target.loseApb_scans (t : Target) (e : Nat) : (t.loseApb e).scans = t.scans := rfl
@[simp] theorem Target.loseApb_txns (t : Target) (e : Nat) : (t.loseApb e).txns = t.txns := rfl
@[simp] theorem Target.loseApb_awaited (t : Target) (e : Nat) : (t.loseApb e).awaited = false := rfl
@[simp] theorem Target.loseApb_reports (t : Target) (e : Nat) : (t.loseApb e).reports = none := rfl
@[simp] theorem Target.loseApb_boot (t : Target) (e : Nat) : (t.loseApb e).boot = .needReset := rfl
@[simp] theorem Target.loseApb_stray (t : Target) (e : Nat) : (t.loseApb e).stray = some e := rfl
@[simp] theorem Target.loseApb_unknownAt (t : Target) (e : Nat) : (t.loseApb e).unknownAt = t.unknownAt := rfl
@[simp] theorem Target.loseApb_fromTlr (t : Target) (e : Nat) : (t.loseApb e).fromTlr = t.fromTlr := rfl
@[simp] theorem Target.loseApb_history (t : Target) (e : Nat) : (t.loseApb e).history = t.history := rfl

@[simp] theorem Target.loseState_ir (t : Target) (e : Nat) : (t.loseState e).ir = Config.freeIr t.history := rfl
@[simp] theorem Target.loseState_control (t : Target) (e : Nat) : (t.loseState e).control = Config.freeControl t.history := rfl
@[simp] theorem Target.loseState_shiftReg (t : Target) (e : Nat) : (t.loseState e).shiftReg = t.shiftReg := rfl
@[simp] theorem Target.loseState_shifted (t : Target) (e : Nat) : (t.loseState e).shifted = t.shifted := rfl
@[simp] theorem Target.loseState_tdo (t : Target) (e : Nat) : (t.loseState e).tdo = t.tdo := rfl
@[simp] theorem Target.loseState_scans (t : Target) (e : Nat) : (t.loseState e).scans = t.scans := rfl
@[simp] theorem Target.loseState_txns (t : Target) (e : Nat) : (t.loseState e).txns = t.txns := rfl
@[simp] theorem Target.loseState_awaited (t : Target) (e : Nat) : (t.loseState e).awaited = false := rfl
@[simp] theorem Target.loseState_reports (t : Target) (e : Nat) : (t.loseState e).reports = none := rfl
@[simp] theorem Target.loseState_boot (t : Target) (e : Nat) : (t.loseState e).boot = .needReset := rfl
@[simp] theorem Target.loseState_stray (t : Target) (e : Nat) : (t.loseState e).stray = some e := rfl
@[simp] theorem Target.loseState_unknownAt (t : Target) (e : Nat) : (t.loseState e).unknownAt = t.unknownAt := rfl
@[simp] theorem Target.loseState_fromTlr (t : Target) (e : Nat) : (t.loseState e).fromTlr = t.fromTlr := rfl
@[simp] theorem Target.loseState_history (t : Target) (e : Nat) : (t.loseState e).history = t.history := rfl

@[simp] theorem Target.captureIr_ir (t : Target) (e : Nat) : (t.captureIr e).ir = t.ir := rfl
@[simp] theorem Target.captureIr_control (t : Target) (e : Nat) : (t.captureIr e).control = t.control := rfl
@[simp] theorem Target.captureIr_shiftReg (t : Target) (e : Nat) : (t.captureIr e).shiftReg = bitsOfNat (Config.irCapture t.history).toNat Config.irLen := rfl
@[simp] theorem Target.captureIr_shifted (t : Target) (e : Nat) : (t.captureIr e).shifted = 0 := rfl
@[simp] theorem Target.captureIr_tdo (t : Target) (e : Nat) : (t.captureIr e).tdo = Config.tdo t.history e := rfl
@[simp] theorem Target.captureIr_scans (t : Target) (e : Nat) : (t.captureIr e).scans = t.scans := rfl
@[simp] theorem Target.captureIr_txns (t : Target) (e : Nat) : (t.captureIr e).txns = t.txns := rfl
@[simp] theorem Target.captureIr_awaited (t : Target) (e : Nat) : (t.captureIr e).awaited = t.awaited := rfl
@[simp] theorem Target.captureIr_reports (t : Target) (e : Nat) : (t.captureIr e).reports = t.reports := rfl
@[simp] theorem Target.captureIr_boot (t : Target) (e : Nat) : (t.captureIr e).boot = t.boot := rfl
@[simp] theorem Target.captureIr_stray (t : Target) (e : Nat) : (t.captureIr e).stray = t.stray := rfl
@[simp] theorem Target.captureIr_unknownAt (t : Target) (e : Nat) : (t.captureIr e).unknownAt = t.unknownAt := rfl
@[simp] theorem Target.captureIr_fromTlr (t : Target) (e : Nat) : (t.captureIr e).fromTlr = t.fromTlr := rfl
@[simp] theorem Target.captureIr_history (t : Target) (e : Nat) : (t.captureIr e).history = t.history := rfl

@[simp] theorem Target.shiftDrEdge_ir (t : Target) (d : Bit) (e : Nat) : (t.shiftDrEdge d e).ir = t.ir := rfl
@[simp] theorem Target.shiftDrEdge_control (t : Target) (d : Bit) (e : Nat) : (t.shiftDrEdge d e).control = t.control := rfl
@[simp] theorem Target.shiftDrEdge_shiftReg (t : Target) (d : Bit) (e : Nat) : (t.shiftDrEdge d e).shiftReg = shiftIn t.shiftReg d := rfl
@[simp] theorem Target.shiftDrEdge_shifted (t : Target) (d : Bit) (e : Nat) : (t.shiftDrEdge d e).shifted = t.shifted + 1 := rfl
@[simp] theorem Target.shiftDrEdge_tdo (t : Target) (d : Bit) (e : Nat) : (t.shiftDrEdge d e).tdo = t.serialOut (Config.tdo t.history e) := rfl
@[simp] theorem Target.shiftDrEdge_scans (t : Target) (d : Bit) (e : Nat) : (t.shiftDrEdge d e).scans = t.scans := rfl
@[simp] theorem Target.shiftDrEdge_txns (t : Target) (d : Bit) (e : Nat) : (t.shiftDrEdge d e).txns = t.txns := rfl
@[simp] theorem Target.shiftDrEdge_awaited (t : Target) (d : Bit) (e : Nat) : (t.shiftDrEdge d e).awaited = t.awaited := rfl
@[simp] theorem Target.shiftDrEdge_reports (t : Target) (d : Bit) (e : Nat) : (t.shiftDrEdge d e).reports = t.reports := rfl
@[simp] theorem Target.shiftDrEdge_boot (t : Target) (d : Bit) (e : Nat) : (t.shiftDrEdge d e).boot = t.boot := rfl
@[simp] theorem Target.shiftDrEdge_stray (t : Target) (d : Bit) (e : Nat) : (t.shiftDrEdge d e).stray = t.stray := rfl
@[simp] theorem Target.shiftDrEdge_unknownAt (t : Target) (d : Bit) (e : Nat) : (t.shiftDrEdge d e).unknownAt = t.unknownAt := rfl
@[simp] theorem Target.shiftDrEdge_fromTlr (t : Target) (d : Bit) (e : Nat) : (t.shiftDrEdge d e).fromTlr = t.fromTlr := rfl
@[simp] theorem Target.shiftDrEdge_history (t : Target) (d : Bit) (e : Nat) : (t.shiftDrEdge d e).history = t.history := rfl

@[simp] theorem Target.shiftIrEdge_ir (t : Target) (d : Bit) (e : Nat) : (t.shiftIrEdge d e).ir = t.ir := rfl
@[simp] theorem Target.shiftIrEdge_control (t : Target) (d : Bit) (e : Nat) : (t.shiftIrEdge d e).control = t.control := rfl
@[simp] theorem Target.shiftIrEdge_shiftReg (t : Target) (d : Bit) (e : Nat) : (t.shiftIrEdge d e).shiftReg = shiftIn t.shiftReg d := rfl
@[simp] theorem Target.shiftIrEdge_shifted (t : Target) (d : Bit) (e : Nat) : (t.shiftIrEdge d e).shifted = t.shifted + 1 := rfl
@[simp] theorem Target.shiftIrEdge_tdo (t : Target) (d : Bit) (e : Nat) : (t.shiftIrEdge d e).tdo = Config.tdo t.history e := rfl
@[simp] theorem Target.shiftIrEdge_scans (t : Target) (d : Bit) (e : Nat) : (t.shiftIrEdge d e).scans = t.scans := rfl
@[simp] theorem Target.shiftIrEdge_txns (t : Target) (d : Bit) (e : Nat) : (t.shiftIrEdge d e).txns = t.txns := rfl
@[simp] theorem Target.shiftIrEdge_awaited (t : Target) (d : Bit) (e : Nat) : (t.shiftIrEdge d e).awaited = t.awaited := rfl
@[simp] theorem Target.shiftIrEdge_reports (t : Target) (d : Bit) (e : Nat) : (t.shiftIrEdge d e).reports = t.reports := rfl
@[simp] theorem Target.shiftIrEdge_boot (t : Target) (d : Bit) (e : Nat) : (t.shiftIrEdge d e).boot = t.boot := rfl
@[simp] theorem Target.shiftIrEdge_stray (t : Target) (d : Bit) (e : Nat) : (t.shiftIrEdge d e).stray = t.stray := rfl
@[simp] theorem Target.shiftIrEdge_unknownAt (t : Target) (d : Bit) (e : Nat) : (t.shiftIrEdge d e).unknownAt = t.unknownAt := rfl
@[simp] theorem Target.shiftIrEdge_fromTlr (t : Target) (d : Bit) (e : Nat) : (t.shiftIrEdge d e).fromTlr = t.fromTlr := rfl
@[simp] theorem Target.shiftIrEdge_history (t : Target) (d : Bit) (e : Nat) : (t.shiftIrEdge d e).history = t.history := rfl

@[simp] theorem Target.forget_ir (t : Target) (e : Nat) : (t.forget e).ir = Config.freeIr t.history := rfl
@[simp] theorem Target.forget_control (t : Target) (e : Nat) : (t.forget e).control = Config.freeControl t.history := rfl
@[simp] theorem Target.forget_shiftReg (t : Target) (e : Nat) : (t.forget e).shiftReg = [] := rfl
@[simp] theorem Target.forget_shifted (t : Target) (e : Nat) : (t.forget e).shifted = 0 := rfl
@[simp] theorem Target.forget_tdo (t : Target) (e : Nat) : (t.forget e).tdo = Config.tdo t.history e := rfl
@[simp] theorem Target.forget_scans (t : Target) (e : Nat) : (t.forget e).scans = t.scans := rfl
@[simp] theorem Target.forget_txns (t : Target) (e : Nat) : (t.forget e).txns = t.txns := rfl
@[simp] theorem Target.forget_awaited (t : Target) (e : Nat) : (t.forget e).awaited = false := rfl
@[simp] theorem Target.forget_reports (t : Target) (e : Nat) : (t.forget e).reports = none := rfl
@[simp] theorem Target.forget_boot (t : Target) (e : Nat) : (t.forget e).boot = .needReset := rfl
@[simp] theorem Target.forget_stray (t : Target) (e : Nat) : (t.forget e).stray = t.stray := rfl
@[simp] theorem Target.forget_unknownAt (t : Target) (e : Nat) : (t.forget e).unknownAt = e := rfl
@[simp] theorem Target.forget_fromTlr (t : Target) (e : Nat) : (t.forget e).fromTlr = false := rfl
@[simp] theorem Target.forget_history (t : Target) (e : Nat) : (t.forget e).history = t.history := rfl

@[simp] theorem Target.enterTlr_ir (t : Target) : (t.enterTlr).ir = Config.opcIdcode := rfl
@[simp] theorem Target.enterTlr_control (t : Target) : (t.enterTlr).control = t.control := rfl
@[simp] theorem Target.enterTlr_shiftReg (t : Target) : (t.enterTlr).shiftReg = t.shiftReg := rfl
@[simp] theorem Target.enterTlr_shifted (t : Target) : (t.enterTlr).shifted = t.shifted := rfl
@[simp] theorem Target.enterTlr_tdo (t : Target) : (t.enterTlr).tdo = t.tdo := rfl
@[simp] theorem Target.enterTlr_scans (t : Target) : (t.enterTlr).scans = t.scans := rfl
@[simp] theorem Target.enterTlr_txns (t : Target) : (t.enterTlr).txns = t.txns := rfl
@[simp] theorem Target.enterTlr_awaited (t : Target) : (t.enterTlr).awaited = false := rfl
@[simp] theorem Target.enterTlr_reports (t : Target) : (t.enterTlr).reports = t.reports := rfl
@[simp] theorem Target.enterTlr_boot (t : Target) : (t.enterTlr).boot = .needControl := rfl
@[simp] theorem Target.enterTlr_stray (t : Target) : (t.enterTlr).stray = t.stray := rfl
@[simp] theorem Target.enterTlr_unknownAt (t : Target) : (t.enterTlr).unknownAt = t.unknownAt := rfl
@[simp] theorem Target.enterTlr_fromTlr (t : Target) : (t.enterTlr).fromTlr = true := rfl
@[simp] theorem Target.enterTlr_history (t : Target) : (t.enterTlr).history = t.history := rfl

@[simp] theorem Target.updateIr_ir (t : Target) : (t.updateIr).ir = if t.shifted = Config.irLen then BitVec.ofNat 5 (valueOfBits t.shiftReg) else Config.freeIr t.history := rfl
@[simp] theorem Target.updateIr_control (t : Target) : (t.updateIr).control = t.control := rfl
@[simp] theorem Target.updateIr_shiftReg (t : Target) : (t.updateIr).shiftReg = t.shiftReg := rfl
@[simp] theorem Target.updateIr_shifted (t : Target) : (t.updateIr).shifted = t.shifted := rfl
@[simp] theorem Target.updateIr_tdo (t : Target) : (t.updateIr).tdo = t.tdo := rfl
@[simp] theorem Target.updateIr_scans (t : Target) : (t.updateIr).scans = t.scans := rfl
@[simp] theorem Target.updateIr_txns (t : Target) : (t.updateIr).txns = t.txns := rfl
@[simp] theorem Target.updateIr_awaited (t : Target) : (t.updateIr).awaited = false := rfl
@[simp] theorem Target.updateIr_reports (t : Target) : (t.updateIr).reports = t.reports := rfl
@[simp] theorem Target.updateIr_boot (t : Target) : (t.updateIr).boot = t.boot := rfl
@[simp] theorem Target.updateIr_stray (t : Target) : (t.updateIr).stray = t.stray := rfl
@[simp] theorem Target.updateIr_unknownAt (t : Target) : (t.updateIr).unknownAt = t.unknownAt := rfl
@[simp] theorem Target.updateIr_fromTlr (t : Target) : (t.updateIr).fromTlr = t.fromTlr := rfl
@[simp] theorem Target.updateIr_history (t : Target) : (t.updateIr).history = t.history := rfl

@[simp] theorem Target.afterUpdate_ir (t : Target) : t.afterUpdate.ir = t.ir := rfl
@[simp] theorem Target.afterUpdate_control (t : Target) : t.afterUpdate.control = t.control := rfl
@[simp] theorem Target.afterUpdate_shiftReg (t : Target) : t.afterUpdate.shiftReg = t.shiftReg := rfl
@[simp] theorem Target.afterUpdate_shifted (t : Target) : t.afterUpdate.shifted = t.shifted := rfl
@[simp] theorem Target.afterUpdate_tdo (t : Target) : t.afterUpdate.tdo = t.tdo := rfl
@[simp] theorem Target.afterUpdate_scans (t : Target) : t.afterUpdate.scans = t.scans := rfl
@[simp] theorem Target.afterUpdate_txns (t : Target) : t.afterUpdate.txns = t.txns := rfl
@[simp] theorem Target.afterUpdate_awaited (t : Target) : t.afterUpdate.awaited = t.awaited := rfl
@[simp] theorem Target.afterUpdate_reports (t : Target) : t.afterUpdate.reports = t.reports := rfl
@[simp] theorem Target.afterUpdate_boot (t : Target) : t.afterUpdate.boot = t.boot := rfl
@[simp] theorem Target.afterUpdate_stray (t : Target) : t.afterUpdate.stray = t.stray := rfl
@[simp] theorem Target.afterUpdate_unknownAt (t : Target) : t.afterUpdate.unknownAt = t.unknownAt := rfl
@[simp] theorem Target.afterUpdate_history (t : Target) : t.afterUpdate.history = t.history := rfl
@[simp] theorem Target.afterUpdate_fromTlr (t : Target) : t.afterUpdate.fromTlr = false := rfl

@[simp] theorem Target.beginShift_ir (t : Target) (n : Nat) : (t.beginShift n).ir = t.ir := by
  unfold Target.beginShift; split <;> rfl
@[simp] theorem Target.beginShift_control (t : Target) (n : Nat) : (t.beginShift n).control = t.control := by
  unfold Target.beginShift; split <;> rfl
@[simp] theorem Target.beginShift_shifted (t : Target) (n : Nat) : (t.beginShift n).shifted = t.shifted := by
  unfold Target.beginShift; split <;> rfl
@[simp] theorem Target.beginShift_tdo (t : Target) (n : Nat) : (t.beginShift n).tdo = t.tdo := by
  unfold Target.beginShift; split <;> rfl
@[simp] theorem Target.beginShift_scans (t : Target) (n : Nat) : (t.beginShift n).scans = t.scans := by
  unfold Target.beginShift; split <;> rfl
@[simp] theorem Target.beginShift_txns (t : Target) (n : Nat) : (t.beginShift n).txns = t.txns := by
  unfold Target.beginShift; split <;> rfl
@[simp] theorem Target.beginShift_awaited (t : Target) (n : Nat) : (t.beginShift n).awaited = t.awaited := by
  unfold Target.beginShift; split <;> rfl
@[simp] theorem Target.beginShift_reports (t : Target) (n : Nat) : (t.beginShift n).reports = t.reports := by
  unfold Target.beginShift; split <;> rfl
@[simp] theorem Target.beginShift_boot (t : Target) (n : Nat) : (t.beginShift n).boot = t.boot := by
  unfold Target.beginShift; split <;> rfl
@[simp] theorem Target.beginShift_stray (t : Target) (n : Nat) : (t.beginShift n).stray = t.stray := by
  unfold Target.beginShift; split <;> rfl
@[simp] theorem Target.beginShift_unknownAt (t : Target) (n : Nat) : (t.beginShift n).unknownAt = t.unknownAt := by
  unfold Target.beginShift; split <;> rfl
@[simp] theorem Target.beginShift_fromTlr (t : Target) (n : Nat) : (t.beginShift n).fromTlr = t.fromTlr := by
  unfold Target.beginShift; split <;> rfl
@[simp] theorem Target.beginShift_history (t : Target) (n : Nat) : (t.beginShift n).history = t.history := by
  unfold Target.beginShift; split <;> rfl

end Sys2Proof.Machine
end

