-- ==== Sys2Proof/Laws/Ops.lean ====
section
/-! SUPPORT. One lemma per shared operation that says what it does: driving edges, shifting, scanning, checking, raising. -/

namespace Sys2Proof.Machine

/-! Driving edges. -/

@[simp] theorem State.driveEdges_nil (s : State) : s.driveEdges [] = s := rfl

theorem State.driveEdges_cons (e : Bit × Bit) (es : List (Bit × Bit)) (s : State) :
    s.driveEdges (e :: es) = (s.edgeStep e.1 e.2).driveEdges es := rfl

theorem State.driveEdges_append (es fs : List (Bit × Bit)) (s : State) :
    s.driveEdges (es ++ fs) = (s.driveEdges es).driveEdges fs := by
  simp [State.driveEdges]

@[simp] theorem State.driveEdges_edges (es : List (Bit × Bit)) (s : State) :
    (s.driveEdges es).edges = s.edges + es.length := by
  induction es generalizing s with
  | nil => rfl
  | cons e es ih => simp [State.driveEdges_cons, ih, Nat.add_assoc, Nat.add_comm 1]

@[simp] theorem State.driveEdges_srIn (es : List (Bit × Bit)) (s : State) :
    (s.driveEdges es).srIn = s.srIn := by
  induction es generalizing s with
  | nil => rfl
  | cons e es ih => simp [State.driveEdges_cons, ih]

@[simp] theorem State.driveEdges_srOut (es : List (Bit × Bit)) (s : State) :
    (s.driveEdges es).srOut = s.srOut := by
  induction es generalizing s with
  | nil => rfl
  | cons e es ih => simp [State.driveEdges_cons, ih]

@[simp] theorem State.driveEdges_errors (es : List (Bit × Bit)) (s : State) :
    (s.driveEdges es).errors = s.errors := by
  induction es generalizing s with
  | nil => rfl
  | cons e es ih => simp [State.driveEdges_cons, ih]

@[simp] theorem State.driveEdges_calls (es : List (Bit × Bit)) (s : State) :
    (s.driveEdges es).calls = s.calls := by
  induction es generalizing s with
  | nil => rfl
  | cons e es ih => simp [State.driveEdges_cons, ih]

@[simp] theorem State.driveEdges_pc (es : List (Bit × Bit)) (s : State) :
    (s.driveEdges es).pc = s.pc := by
  induction es generalizing s with
  | nil => rfl
  | cons e es ih => simp [State.driveEdges_cons, ih]

@[simp] theorem State.driveEdges_result (es : List (Bit × Bit)) (s : State) :
    (s.driveEdges es).result = s.result := by
  induction es generalizing s with
  | nil => rfl
  | cons e es ih => simp [State.driveEdges_cons, ih]

/-- The TAP state after a sequence depends on the TMS values alone (R34). -/
theorem State.driveEdges_tap (es : List (Bit × Bit)) (s : State) :
    (s.driveEdges es).tap = (es.map Prod.fst).foldl Tap.next s.tap := by
  induction es generalizing s with
  | nil => rfl
  | cons e es ih => simp [State.driveEdges_cons, ih]

/-- The lines hold the last values driven (R36). -/
@[simp] theorem State.driveEdges_concat_tms (es : List (Bit × Bit)) (e : Bit × Bit) (s : State) :
    (s.driveEdges (es ++ [e])).tms = .driven e.1 := by
  simp [State.driveEdges_append, State.driveEdges_cons]

@[simp] theorem State.driveEdges_concat_tdi (es : List (Bit × Bit)) (e : Bit × Bit) (s : State) :
    (s.driveEdges (es ++ [e])).tdi = .driven e.2 := by
  simp [State.driveEdges_append, State.driveEdges_cons]

/-- Edges neither read nor write the navigator's shift register. -/
theorem State.driveEdges_setShiftReg (es : List (Bit × Bit)) (i o : BitSeq) (s : State) :
    (s.setShiftReg i o).driveEdges es = (s.driveEdges es).setShiftReg i o := by
  induction es generalizing s with
  | nil => rfl
  | cons e es ih => exact ih (s.edgeStep e.1 e.2)

theorem State.samples_setShiftReg (es : List (Bit × Bit)) (i o : BitSeq) (s : State) :
    State.samples es (s.setShiftReg i o) = State.samples es s := by
  induction es generalizing s with
  | nil => rfl
  | cons e es ih => exact congrArg (_ :: ·) (ih (s.edgeStep e.1 e.2))

@[simp] theorem State.samples_length (es : List (Bit × Bit)) (s : State) :
    (State.samples es s).length = es.length := by
  induction es generalizing s with
  | nil => rfl
  | cons e es ih => simp [State.samples, ih]

/-! Shifting (R150). -/

theorem State.shiftLoop_eq (bits : BitSeq) (s : State) :
    State.shiftLoop bits s =
      (s.driveEdges (shiftEdges bits)).setShiftReg (if bits = [] then s.srIn else [])
        (s.srOut ++ State.samples (shiftEdges bits) s) := by
  induction bits generalizing s with
  | nil => simp [State.shiftLoop, State.samples, State.setShiftReg]
  | cons b bs ih =>
    simp only [State.shiftLoop, ih, shiftEdges_cons, State.driveEdges_setShiftReg,
      State.samples_setShiftReg, State.driveEdges_cons, State.samples]
    cases bs <;> simp

/-- `shift` drives its sequence, leaves the shift register empty and returns the samples of its edges. -/
theorem State.shiftBody_eq (bits : BitSeq) (s : State) :
    s.shiftBody bits =
      (((s.beginShift bits.length).driveEdges (shiftEdges bits)).setShiftReg [] [],
        State.samples (shiftEdges bits) (s.beginShift bits.length)) := by
  simp [State.shiftBody, State.shiftLoop_eq, State.driveEdges_setShiftReg, State.samples_setShiftReg]

/-- A scan drives the three sequences one after the other and returns the samples of the middle one (R105). -/
theorem State.scanBody_eq (goto : BitSeq) (bits : BitSeq) (s : State) :
    s.scanBody goto bits =
      (((((s.driveEdges (heldAt goto false)).beginShift bits.length).driveEdges (shiftEdges bits)).driveEdges
          (heldAt tmsReturnToIdle false)).setShiftReg [] [],
        State.samples (shiftEdges bits) ((s.driveEdges (heldAt goto false)).beginShift bits.length)) := by
  simp [State.scanBody, State.shiftBody_eq, State.driveEdges_setShiftReg]

/-- A complete shift ends in the Exit1 state of its register (R150). -/
theorem Tap.next_tmsShift_shiftDR (n : Nat) :
    (tmsShift (n + 1)).foldl Tap.next (.known .shiftDR) = .known .exit1DR := by
  induction n with
  | zero => rfl
  | succ n ih => rw [tmsShift_succ]; exact ih

theorem Tap.next_tmsShift_shiftIR (n : Nat) :
    (tmsShift (n + 1)).foldl Tap.next (.known .shiftIR) = .known .exit1IR := by
  induction n with
  | zero => rfl
  | succ n ih => rw [tmsShift_succ]; exact ih

/-! Held edges (R151). -/

theorem State.heldEdges_succ (n : Nat) (s : State) :
    s.heldEdges (n + 1) = s.edge.heldEdges n := rfl

@[simp] theorem State.heldEdges_edges (n : Nat) (s : State) :
    (s.heldEdges n).edges = s.edges + n := by
  induction n generalizing s with
  | zero => rfl
  | succ n ih => simp [State.heldEdges_succ, ih]; omega

/-- Held edges change only the TAP state, the edge count and the target. -/
theorem State.heldEdges_frame (n : Nat) (s : State) :
    s.SameRecord (s.heldEdges n) ∧ s.SameShiftReg (s.heldEdges n) ∧ (s.heldEdges n).tms = s.tms ∧
      (s.heldEdges n).tdi = s.tdi ∧ (s.heldEdges n).result = s.result := by
  induction n generalizing s with
  | zero => exact ⟨⟨rfl, rfl, rfl⟩, ⟨rfl, rfl⟩, rfl, rfl, rfl⟩
  | succ n ih =>
    obtain ⟨⟨h1, h2, h3⟩, ⟨h4, h5⟩, h6, h7, h8⟩ := ih s.edge
    exact ⟨⟨h1, h2, h3⟩, ⟨h4, h5⟩, h6, h7, h8⟩

/-! Checks (R231, R232). -/

theorem State.requireTap_of_legal {legal : Tap → Bool} {s : State} (body : State → State)
    (h : legal s.tap = true) : s.requireTap legal body = body s := by
  simp [State.requireTap, h]

theorem State.requireTap_of_illegal {legal : Tap → Bool} {s : State} (body : State → State)
    (h : legal s.tap = false) :
    s.requireTap legal body = s.raise .protocolStateError (.tap s.tap) := by
  simp [State.requireTap, h]

theorem State.requireBits_of_nonempty {bits : BitSeq} (s : State) (body : State → State)
    (h : bits ≠ []) : s.requireBits bits body = body s := by
  simp [State.requireBits, h]

@[simp] theorem State.requireBits_nil (s : State) (body : State → State) :
    s.requireBits [] body = s.raise .domainError (.argument 0) := rfl

theorem Tap.resetOrIdle_iff (t : Tap) :
    t.resetOrIdle = true ↔ t = .known .tlr ∨ t = .known .rti := by
  simp [Tap.resetOrIdle]

theorem Tap.exit1_iff (t : Tap) :
    t.exit1 = true ↔ t = .known .exit1IR ∨ t = .known .exit1DR := by
  simp [Tap.exit1]

theorem Tap.shifting_iff (t : Tap) :
    t.shifting = true ↔ t = .known .shiftIR ∨ t = .known .shiftDR := by
  simp [Tap.shifting]

theorem Tap.mayWait_iff (t : Tap) :
    t.mayWait = true ↔ t = .unknown ∨ t = .known .tlr ∨ t = .known .rti := by
  simp [Tap.mayWait, Tap.resetOrIdle]

end Sys2Proof.Machine
end

