-- ==== Sys2Proof/Laws/Target.lean ====
section
/-! SUPPORT. One lemma per TAP state for what an edge does to the target (R144), which register the IR selects (R46), and what the pairing of a reply can be (R70, R73). -/

namespace Sys2Proof.Machine

/-! The three opcodes are pairwise distinct (D25). -/

theorem Config_add_ne_self (base : BitVec 5) (k : Nat) (h0 : 0 < k) (h1 : k < 32) :
    base + BitVec.ofNat 5 k ≠ base := by
  intro h
  have h2 := congrArg BitVec.toNat h
  simp only [BitVec.toNat_add, BitVec.toNat_ofNat] at h2
  have := base.isLt
  omega

theorem accessOffset_bounds (c : Fin 31) (a : Fin 30) :
    0 < Config.accessOffset c a ∧ Config.accessOffset c a < 32 ∧
      Config.accessOffset c a ≠ c.val + 1 := by
  unfold Config.accessOffset
  split <;> omega

theorem opcApbControl_ne_idcode : Config.opcApbControl ≠ Config.opcIdcode :=
  Config_add_ne_self _ _ (Nat.succ_pos _) (by have := Config.controlGap.isLt; omega)

theorem opcApbAccess_ne_idcode : Config.opcApbAccess ≠ Config.opcIdcode :=
  have h := accessOffset_bounds Config.controlGap Config.accessGap
  Config_add_ne_self _ _ h.1 h.2.1

theorem opcApbAccess_ne_control : Config.opcApbAccess ≠ Config.opcApbControl := by
  intro h
  obtain ⟨-, h1, h2⟩ := accessOffset_bounds Config.controlGap Config.accessGap
  have h3 := congrArg BitVec.toNat h
  simp only [Config.opcApbAccess, Config.opcApbControl, BitVec.toNat_add, BitVec.toNat_ofNat] at h3
  have := Config.controlGap.isLt
  have := Config.opcIdcode.isLt
  omega

/-! Which register the IR selects (R46). -/

@[simp] theorem selectedDr_idcode : selectedDr Config.opcIdcode = .idcodeChain := by
  simp [selectedDr]

@[simp] theorem selectedDr_control : selectedDr Config.opcApbControl = .apbControl := by
  simp [selectedDr, opcApbControl_ne_idcode]

@[simp] theorem selectedDr_access : selectedDr Config.opcApbAccess = .apbAccess := by
  simp [selectedDr, opcApbAccess_ne_idcode, opcApbAccess_ne_control]

/-! The edge that leaves a TAP state. -/

@[simp] theorem Target.leave_tlr (t : Target) (d : Line) (e : Nat) :
    t.leave (.known .tlr) d e = { t with tdo := Config.tdo t.history e } := rfl

@[simp] theorem Target.leave_rti (t : Target) (d : Line) (e : Nat) :
    t.leave (.known .rti) d e = { t with tdo := Config.tdo t.history e } := rfl

@[simp] theorem Target.leave_selDR (t : Target) (d : Line) (e : Nat) :
    t.leave (.known .selDR) d e = { t with tdo := Config.tdo t.history e } := rfl

@[simp] theorem Target.leave_capDR (t : Target) (d : Line) (e : Nat) :
    t.leave (.known .capDR) d e = t.captureDr e := rfl

@[simp] theorem Target.leave_shiftDR (t : Target) (d : Line) (e : Nat) :
    t.leave (.known .shiftDR) d e = t.shiftDrEdge (d.level (Config.tdo t.history e)) e := rfl

@[simp] theorem Target.leave_exit1DR (t : Target) (d : Line) (e : Nat) :
    t.leave (.known .exit1DR) d e = { t with tdo := Config.tdo t.history e } := rfl

@[simp] theorem Target.leave_pauseDR (t : Target) (d : Line) (e : Nat) :
    t.leave (.known .pauseDR) d e = { t with tdo := Config.tdo t.history e } := rfl

@[simp] theorem Target.leave_exit2DR (t : Target) (d : Line) (e : Nat) :
    t.leave (.known .exit2DR) d e = { t with tdo := Config.tdo t.history e } := rfl

@[simp] theorem Target.leave_updateDR (t : Target) (d : Line) (e : Nat) :
    t.leave (.known .updateDR) d e = { t with tdo := Config.tdo t.history e } := rfl

@[simp] theorem Target.leave_selIR (t : Target) (d : Line) (e : Nat) :
    t.leave (.known .selIR) d e = { t with tdo := Config.tdo t.history e } := rfl

@[simp] theorem Target.leave_capIR (t : Target) (d : Line) (e : Nat) :
    t.leave (.known .capIR) d e = t.captureIr e := rfl

@[simp] theorem Target.leave_shiftIR (t : Target) (d : Line) (e : Nat) :
    t.leave (.known .shiftIR) d e = t.shiftIrEdge (d.level (Config.tdo t.history e)) e := rfl

@[simp] theorem Target.leave_exit1IR (t : Target) (d : Line) (e : Nat) :
    t.leave (.known .exit1IR) d e = { t with tdo := Config.tdo t.history e } := rfl

@[simp] theorem Target.leave_pauseIR (t : Target) (d : Line) (e : Nat) :
    t.leave (.known .pauseIR) d e = { t with tdo := Config.tdo t.history e } := rfl

@[simp] theorem Target.leave_exit2IR (t : Target) (d : Line) (e : Nat) :
    t.leave (.known .exit2IR) d e = { t with tdo := Config.tdo t.history e } := rfl

@[simp] theorem Target.leave_updateIR (t : Target) (d : Line) (e : Nat) :
    t.leave (.known .updateIR) d e = { t with tdo := Config.tdo t.history e } := rfl

@[simp] theorem Target.leave_unknown (t : Target) (d : Line) (e : Nat) :
    t.leave .unknown d e = t.forget e := rfl

/-! The edge that enters a TAP state. -/

@[simp] theorem Target.enter_tlr (t : Target) (e : Nat) :
    t.enter (.known .tlr) e = t.enterTlr := rfl

@[simp] theorem Target.enter_rti (t : Target) (e : Nat) :
    t.enter (.known .rti) e = t := rfl

@[simp] theorem Target.enter_selDR (t : Target) (e : Nat) :
    t.enter (.known .selDR) e = t := rfl

@[simp] theorem Target.enter_capDR (t : Target) (e : Nat) :
    t.enter (.known .capDR) e = t := rfl

@[simp] theorem Target.enter_shiftDR (t : Target) (e : Nat) :
    t.enter (.known .shiftDR) e = t := rfl

@[simp] theorem Target.enter_exit1DR (t : Target) (e : Nat) :
    t.enter (.known .exit1DR) e = t := rfl

@[simp] theorem Target.enter_pauseDR (t : Target) (e : Nat) :
    t.enter (.known .pauseDR) e = t := rfl

@[simp] theorem Target.enter_exit2DR (t : Target) (e : Nat) :
    t.enter (.known .exit2DR) e = t := rfl

@[simp] theorem Target.enter_updateDR (t : Target) (e : Nat) :
    t.enter (.known .updateDR) e = (t.updateDr e).afterUpdate := rfl

@[simp] theorem Target.enter_selIR (t : Target) (e : Nat) :
    t.enter (.known .selIR) e = t := rfl

@[simp] theorem Target.enter_capIR (t : Target) (e : Nat) :
    t.enter (.known .capIR) e = t := rfl

@[simp] theorem Target.enter_shiftIR (t : Target) (e : Nat) :
    t.enter (.known .shiftIR) e = t := rfl

@[simp] theorem Target.enter_exit1IR (t : Target) (e : Nat) :
    t.enter (.known .exit1IR) e = t := rfl

@[simp] theorem Target.enter_pauseIR (t : Target) (e : Nat) :
    t.enter (.known .pauseIR) e = t := rfl

@[simp] theorem Target.enter_exit2IR (t : Target) (e : Nat) :
    t.enter (.known .exit2IR) e = t := rfl

@[simp] theorem Target.enter_updateIR (t : Target) (e : Nat) :
    t.enter (.known .updateIR) e = t.updateIr.afterUpdate := rfl

@[simp] theorem Target.enter_unknown (t : Target) (e : Nat) : t.enter .unknown e = t := rfl

/-! Shifting bits into a register (R144). -/

@[simp] theorem shiftIn_length (reg : BitSeq) (b : Bit) : (shiftIn reg b).length = reg.length := by
  cases reg <;> simp [shiftIn]

/-- After as many shifts as the register is long, it holds the bits shifted in, the first one next to serial-out. -/
theorem foldl_shiftIn (reg bits : BitSeq) (h : bits.length ≤ reg.length) :
    bits.foldl shiftIn reg = reg.drop bits.length ++ bits := by
  induction bits generalizing reg with
  | nil => simp
  | cons b bs ih =>
    cases reg with
    | nil => simp at h
    | cons r rs =>
      simp only [List.length_cons, Nat.add_le_add_iff_right] at h
      rw [List.foldl_cons, ih _ (by simp [shiftIn]; omega)]
      simp [shiftIn, List.drop_append_of_le_length h]

/-! Pairing (R70, R73). -/

theorem Target.awaitedRead_eq_some {e : Nat} {t : Target} {x : Txn} (h : t.awaitedRead e = some x) :
    t.awaited = true ∧ t.txns.getLast? = some x ∧ x.issuedAt + scanGap + Config.apbLatency ≤ e := by
  unfold Target.awaitedRead at h
  split at h
  next ha hx =>
    split at h
    next hle => cases h; exact ⟨ha, hx, hle⟩
    next => cases h
  next => cases h

/-- A reply reports the READ waited for, or a transaction that has completed. -/
theorem Target.pairing_eq_some {e : Nat} {t : Target} {x : Txn} (h : t.pairing e = some x) :
    t.boot = .ready ∧
      ((∃ y, t.awaitedRead e = some y ∧ x = { y with performed := true }) ∨
        (t.awaitedRead e = none ∧ x ∈ t.txns ∧ x.completedBy e = true)) := by
  unfold Target.pairing at h
  split at h
  next hb =>
    refine ⟨hb, ?_⟩
    split at h
    next y hy => cases h; exact .inl ⟨y, hy, rfl⟩
    next hn => exact .inr ⟨hn, List.mem_filter.mp (List.mem_of_getElem? h)⟩
  all_goals cases h

/-- A reply reports nothing only when the boot order has not been followed, no transaction has completed, or one that no
scan requested may have completed last. -/
theorem Target.pairing_eq_none {e : Nat} {t : Target} (h : t.pairing e = none) (hb : t.boot = .ready) :
    t.awaitedRead e = none ∧ (t.strayMayBeLatest e = true ∨ ∀ x ∈ t.txns, x.completedBy e = false) := by
  unfold Target.pairing at h
  simp only [hb] at h
  split at h
  next => cases h
  next hn =>
    refine ⟨hn, ?_⟩
    cases hs : t.strayMayBeLatest e with
    | true => exact .inl rfl
    | false =>
      refine .inr fun x hx => ?_
      by_contra hc
      have hm : x ∈ t.txns.filter (·.completedBy e) := List.mem_filter.mpr ⟨hx, by simpa using hc⟩
      have hlt := Nat.mod_lt (Config.freePick t.history) (List.length_pos_of_mem hm)
      simp [hs, List.getElem?_eq_getElem hlt] at h

/-- What it takes for a transaction that no scan requested to be the one reported. -/
theorem Target.strayMayBeLatest_iff (e : Nat) (t : Target) :
    t.strayMayBeLatest e = true ↔ ∃ i, t.stray = some i ∧
      ∀ x ∈ t.txns, x.completedBy e = true → x.issuedAt + x.latency < i + Config.apbLatency := by
  cases h : t.stray <;> simp [Target.strayMayBeLatest, h]

theorem SameRequests.refl (awaited : Option Txn) (l : List Txn) : SameRequests awaited l l :=
  List.forall₂_same.mpr fun _ _ => .inl rfl

/-- `settle` changes nothing but that the READ waited for is known to have been performed. -/
theorem Target.settle_requests (e : Nat) (t : Target) : SameRequests (t.awaitedRead e) t.txns (t.settle e) := by
  unfold Target.settle
  split
  · split
    next x hx =>
      obtain ⟨ys, hys⟩ := List.getLast?_eq_some_iff.mp (Target.awaitedRead_eq_some hx).2.1
      rw [hys, List.dropLast_concat]
      exact List.rel_append (SameRequests.refl _ ys) (.cons (.inr ⟨hx, rfl⟩) .nil)
    next => exact .refl _ _
  · exact .refl _ _

/-- What the same requests have in common. -/
theorem SameRequests.map_scan {awaited : Option Txn} {old new : List Txn} (h : SameRequests awaited old new) :
    new.map (·.scan) = old.map (·.scan) := by
  induction h with
  | nil => rfl
  | cons h _ ih =>
    rcases h with rfl | ⟨-, rfl⟩
    · rw [List.map_cons, List.map_cons, ih]
    · rw [List.map_cons, List.map_cons, ih]

/-- The beginning of a shift leaves the register or empties it. -/
theorem Target.beginShift_shiftReg (t : Target) (n : Nat) :
    (t.beginShift n).shiftReg = t.shiftReg ∨ (t.beginShift n).shiftReg = [] := by
  unfold Target.beginShift
  split
  · exact .inl rfl
  · exact .inr rfl

theorem Target.beginShift_of_length {t : Target} {n : Nat} (h : n = t.shiftReg.length) :
    t.beginShift n = t := if_pos (.inl h)

theorem Target.beginShift_of_idcode {t : Target} (n : Nat) (h : t.ReadsIdcodes) :
    t.beginShift n = t := if_pos (.inr h)

end Sys2Proof.Machine
end

