-- ==== Sys2Proof/Laws/Exec.lean ====
section
/-! SUPPORT. What the operations that drive edges do in their legal states, and what their sequences do to the TAP and to the target. -/

namespace Sys2Proof.Machine

/-! Legal calls, with their checks gone. -/

theorem exec_gotoShiftIr_of_legal {s : State} (d : Bit) (h : s.tap.resetOrIdle = true) :
    exec (.gotoShiftIr d) s = .next ((s.driveEdges (heldAt tmsGotoShiftIr d)).returns .nothing) := by
  rw [exec, execGotoShiftIr, State.requireTap_of_legal _ h]

theorem exec_gotoShiftDr_of_legal {s : State} (d : Bit) (h : s.tap.resetOrIdle = true) :
    exec (.gotoShiftDr d) s = .next ((s.driveEdges (heldAt tmsGotoShiftDr d)).returns .nothing) := by
  rw [exec, execGotoShiftDr, State.requireTap_of_legal _ h]

theorem exec_returnToIdle_of_legal {s : State} (d : Bit) (h : s.tap.exit1 = true) :
    exec (.returnToIdle d) s = .next ((s.driveEdges (heldAt tmsReturnToIdle d)).returns .nothing) := by
  rw [exec, execReturnToIdle, State.requireTap_of_legal _ h]

theorem exec_shift_of_legal {s : State} {bits : BitSeq} (hb : bits ≠ []) (h : s.tap.shifting = true) :
    exec (.shift bits) s =
      .next ((((s.beginShift bits.length).driveEdges (shiftEdges bits)).setShiftReg [] []).returns
        (.bits (State.samples (shiftEdges bits) (s.beginShift bits.length)))) := by
  rw [exec, execShift, State.requireBits_of_nonempty _ _ hb, State.requireTap_of_legal _ h, State.shiftBody_eq]

theorem exec_wait_of_legal {s : State} (n : Nat) (h : s.tap.mayWait = true) :
    exec (.wait n) s = .next ((s.heldEdges n).returns .nothing) := by
  rw [exec, execWait, State.requireTap_of_legal _ h]

/-- The state in which the shift of a scan begins. -/
def State.scanShift (goto : BitSeq) (n : Nat) (s : State) : State := (s.driveEdges (heldAt goto false)).beginShift n

/-- What a whole scan drives (R180, R181). -/
def State.scanned (goto bits : BitSeq) (s : State) : State :=
  ((s.scanShift goto bits.length).driveEdges (shiftEdges bits)).driveEdges (heldAt tmsReturnToIdle false)

@[simp] theorem State.scanned_edges (goto bits : BitSeq) (s : State) :
    (s.scanned goto bits).edges = s.edges + (goto.length + bits.length + 2) := by
  simp [State.scanned, State.scanShift, tmsReturnToIdle, Nat.add_assoc]

@[simp] theorem State.scanned_errors (goto bits : BitSeq) (s : State) :
    (s.scanned goto bits).errors = s.errors := by simp [State.scanned, State.scanShift]

@[simp] theorem State.scanned_calls (goto bits : BitSeq) (s : State) :
    (s.scanned goto bits).calls = s.calls := by simp [State.scanned, State.scanShift]

@[simp] theorem State.scanned_pc (goto bits : BitSeq) (s : State) :
    (s.scanned goto bits).pc = s.pc := by simp [State.scanned, State.scanShift]

theorem State.writeInstruction_of_legal {s : State} {bits : BitSeq} (hb : bits ≠ [])
    (h : s.tap.resetOrIdle = true) :
    s.writeInstruction bits =
      ((s.scanned tmsGotoShiftIr bits).setShiftReg [] []).returns .nothing := by
  rw [State.writeInstruction, State.requireBits_of_nonempty _ _ hb, State.requireTap_of_legal _ h,
    State.scanBody_eq]
  rfl

theorem State.writeData_of_legal {s : State} {bits : BitSeq} (use : BitSeq → Result) (hb : bits ≠ [])
    (h : s.tap.resetOrIdle = true) :
    s.writeData bits use =
      ((s.scanned tmsGotoShiftDr bits).setShiftReg [] []).returns
        (use (State.samples (shiftEdges bits) (s.scanShift tmsGotoShiftDr bits.length))) := by
  rw [State.writeData, State.requireBits_of_nonempty _ _ hb, State.requireTap_of_legal _ h,
    State.scanBody_eq]
  rfl

/-- An operation checked against the state gives its body's state or the error (R232). -/
theorem State.requireTap_cases (legal : Tap → Bool) (body : State → State) (s : State) :
    legal s.tap = true ∧ s.requireTap legal body = body s ∨
      legal s.tap = false ∧ s.requireTap legal body = s.raise .protocolStateError (.tap s.tap) := by
  cases h : legal s.tap <;> simp [State.requireTap, h]

theorem State.requireBits_cases (bits : BitSeq) (body : State → State) (s : State) :
    bits ≠ [] ∧ s.requireBits bits body = body s ∨
      bits = [] ∧ s.requireBits bits body = s.raise .domainError (.argument 0) := by
  cases bits <;> simp [State.requireBits]

/-- `write_instruction` drives its scan or raises. -/
theorem State.writeInstruction_cases (bits : BitSeq) (s : State) :
    bits ≠ [] ∧ s.tap.resetOrIdle = true ∧
        s.writeInstruction bits =
          ((s.scanned tmsGotoShiftIr bits).setShiftReg [] []).returns .nothing ∨
      ∃ kind info, kind.raisedByBlock = true ∧ s.writeInstruction bits = s.raise kind info := by
  rcases s.requireBits_cases bits (State.requireTap Tap.resetOrIdle fun s =>
    (s.scanBody tmsGotoShiftIr bits).1.returns .nothing) with ⟨hb, h⟩ | ⟨-, h⟩
  · rcases State.requireTap_cases Tap.resetOrIdle
      (fun s => (s.scanBody tmsGotoShiftIr bits).1.returns .nothing) s with ⟨ht, -⟩ | ⟨-, h'⟩
    · exact .inl ⟨hb, ht, State.writeInstruction_of_legal hb ht⟩
    · exact .inr ⟨_, _, rfl, h.trans h'⟩
  · exact .inr ⟨_, _, rfl, h⟩

/-- `write_data` drives its scan or raises. -/
theorem State.writeData_cases (bits : BitSeq) (use : BitSeq → Result) (s : State) :
    bits ≠ [] ∧ s.tap.resetOrIdle = true ∧
        s.writeData bits use =
          ((s.scanned tmsGotoShiftDr bits).setShiftReg [] []).returns
            (use (State.samples (shiftEdges bits) (s.scanShift tmsGotoShiftDr bits.length))) ∨
      ∃ kind info, kind.raisedByBlock = true ∧ s.writeData bits use = s.raise kind info := by
  by_cases hb : bits = []
  · subst hb; exact .inr ⟨_, _, rfl, rfl⟩
  · cases ht : s.tap.resetOrIdle with
    | true => exact .inl ⟨hb, rfl, State.writeData_of_legal use hb ht⟩
    | false =>
      refine .inr ⟨.protocolStateError, .tap s.tap, rfl, ?_⟩
      rw [State.writeData, State.requireBits_of_nonempty _ _ hb, State.requireTap_of_illegal _ ht]

/-! Where the sequences end. -/

theorem State.driveEdges_gotoShiftIr_tap {s : State} (d : Bit) (h : s.tap.resetOrIdle = true) :
    (s.driveEdges (heldAt tmsGotoShiftIr d)).tap = .known .shiftIR := by
  rw [Tap.resetOrIdle_iff] at h
  rcases h with h | h <;> rw [State.driveEdges_tap, heldAt_tms, h] <;> rfl

theorem State.driveEdges_gotoShiftDr_tap {s : State} (d : Bit) (h : s.tap.resetOrIdle = true) :
    (s.driveEdges (heldAt tmsGotoShiftDr d)).tap = .known .shiftDR := by
  rw [Tap.resetOrIdle_iff] at h
  rcases h with h | h <;> rw [State.driveEdges_tap, heldAt_tms, h] <;> rfl

theorem State.driveEdges_returnToIdle_tap {s : State} (d : Bit) (h : s.tap.exit1 = true) :
    (s.driveEdges (heldAt tmsReturnToIdle d)).tap = .known .rti := by
  rw [Tap.exit1_iff] at h
  rcases h with h | h <;> rw [State.driveEdges_tap, heldAt_tms, h] <;> rfl

theorem State.driveEdges_shift_tap_shiftIR {s : State} {bits : BitSeq} (hb : bits ≠ [])
    (h : s.tap = .known .shiftIR) : (s.driveEdges (shiftEdges bits)).tap = .known .exit1IR := by
  obtain ⟨b, bs, rfl⟩ := List.exists_cons_of_ne_nil hb
  rw [State.driveEdges_tap, shiftEdges_tms, h]
  exact Tap.next_tmsShift_shiftIR bs.length

theorem State.driveEdges_shift_tap_shiftDR {s : State} {bits : BitSeq} (hb : bits ≠ [])
    (h : s.tap = .known .shiftDR) : (s.driveEdges (shiftEdges bits)).tap = .known .exit1DR := by
  obtain ⟨b, bs, rfl⟩ := List.exists_cons_of_ne_nil hb
  rw [State.driveEdges_tap, shiftEdges_tms, h]
  exact Tap.next_tmsShift_shiftDR bs.length

/-! What the sequences do to the target. -/

theorem Target.SameRegisters.refl (t : Target) : t.SameRegisters t :=
  ⟨rfl, rfl, rfl, rfl, rfl, rfl, rfl, rfl, rfl, rfl⟩

theorem Target.SameRegisters.trans {t u v : Target} (h : t.SameRegisters u) (g : u.SameRegisters v) :
    t.SameRegisters v :=
  ⟨g.ir.trans h.ir, g.control.trans h.control, g.scans.trans h.scans, g.txns.trans h.txns,
    g.boot.trans h.boot, g.awaited.trans h.awaited, g.reports.trans h.reports,
    g.stray.trans h.stray, g.unknownAt.trans h.unknownAt, g.fromTlr.trans h.fromTlr⟩

/-- A capture leaves every register but the shift register, and the transactions but for what `settle` notes. -/
theorem Target.captureDr_frame (t : Target) (e : Nat) :
    (t.captureDr e).ir = t.ir ∧ (t.captureDr e).control = t.control ∧ (t.captureDr e).scans = t.scans ∧
      (t.captureDr e).boot = t.boot ∧ (t.captureDr e).awaited = t.awaited ∧
      (t.captureDr e).history = t.history ∧ (t.captureDr e).shifted = 0 ∧
      (t.captureDr e).stray = t.stray ∧ (t.captureDr e).unknownAt = t.unknownAt ∧
      (t.captureDr e).fromTlr = t.fromTlr := by
  unfold Target.captureDr
  dsimp only
  split <;> simp

theorem Target.captureDr_requests (t : Target) (e : Nat) :
    SameRequests (t.awaitedRead e) t.txns (t.captureDr e).txns := by
  unfold Target.captureDr
  dsimp only
  split
  case h_3 => exact t.settle_requests e
  all_goals exact .refl _ _

/-- A capture of another register than the APB data register leaves the transactions alone. -/
theorem Target.captureDr_txns (t : Target) (e : Nat) (h : selectedDr t.ir ≠ .apbAccess) :
    (t.captureDr e).txns = t.txns := by
  unfold Target.captureDr
  dsimp only
  split
  case h_3 hs => exact absurd hs h
  all_goals rfl

theorem Target.SameRegisters.awaitedRead {t u : Target} (h : t.SameRegisters u) (e : Nat) :
    u.awaitedRead e = t.awaitedRead e := by
  unfold Target.awaitedRead
  rw [h.awaited, h.txns]

theorem Target.SameRegisters.mayBeBusy {t u : Target} (h : t.SameRegisters u) (e : Nat) :
    u.mayBeBusy e = t.mayBeBusy e := by
  unfold Target.mayBeBusy
  rw [h.stray, h.unknownAt]

/-- Beginning a shift changes no register of the target but the one being shifted. -/
theorem Target.beginShift_same (t : Target) (n : Nat) : t.SameRegisters (t.beginShift n) := by
  constructor <;> simp

theorem decodeOp_eq_none {n : Nat} (h : decodeOp n = none) : n ≠ 0 ∧ n ≠ 1 ∧ n ≠ 2 := by
  refine ⟨?_, ?_, ?_⟩ <;> rintro rfl <;> cases h

theorem frameStatus_lt (raw : Nat) : frameStatus raw < 4 := by
  rw [frameStatus_eq]
  exact Nat.mod_lt _ (by decide)

theorem selectedDr_ne_access {ir : BitVec 5} (h : ir ≠ Config.opcApbAccess) : selectedDr ir ≠ .apbAccess := by
  unfold selectedDr
  rw [if_neg h]
  split
  · nofun
  · split <;> nofun

/-- What a request draws for its transaction (R71, R72). -/
theorem Target.newTxn_requestedAt (access : Access) (frame e : Nat) (t : Target) :
    (t.newTxn access frame e).RequestedAt e t.txns t where
  issuedAt := rfl
  latency := Nat.min_le_right _ _
  performed hb hf hm := by
    have : t.txns.any (·.inFlightAt e) = false := by simpa using hf
    simp [Target.newTxn, hb, this, hm]

theorem decodeOp_three : decodeOp 3 = none := rfl

/-- Everything an Update-DR can do to the APB side. -/
theorem Target.updateDr_updated (t : Target) (e : Nat) :
    t.UpdatedDr (t.updateDr e) t.txns t.shifted t.shiftReg e t.history where
  unknownAt := by
    unfold Target.updateDr Target.updateControl Target.request
    dsimp only
    repeat' split
    all_goals rfl
  idcode h := by simp [Target.updateDr, h]
  control h hn := by
    simp only [Target.updateDr, h, selectedDr_control, Target.updateControl, hn, if_true]
    by_cases hw : BitVec.ofNat 32 (valueOfBits t.shiftReg) = 0#32
    · simp only [hw, if_true]
      split <;> simp
    · simp [hw]
  frame h hn h3 := by
    simp only [Target.updateDr, h, selectedDr_access, hn, if_true, Target.request]
    split
    case h_4 hop =>
      have := decodeOp_eq_none hop
      have := frameStatus_lt (valueOfBits t.shiftReg)
      omega
    all_goals exact ⟨rfl, rfl, rfl⟩
  none h hn h0 := by
    simp only [Target.updateDr, h, selectedDr_access, hn, if_true, Target.request, h0]
    rfl
  request h hn access code hc hs := by
    have hd : ∀ a, (t.newTxn a (valueOfBits t.shiftReg) e).RequestedAt e t.txns t := fun a =>
      t.newTxn_requestedAt a _ e
    simp only [Target.updateDr, h, selectedDr_access, hn, if_true, Target.request, hs]
    simp only [List.mem_cons, Prod.mk.injEq, List.not_mem_nil, or_false] at hc
    rcases hc with ⟨rfl, rfl⟩ | ⟨rfl, rfl⟩
    · exact ⟨_, rfl, rfl, rfl, rfl, rfl, (hd .read).1, (hd .read).2, (hd .read).3⟩
    · exact ⟨_, rfl, rfl, rfl, rfl, rfl, (hd .write).1, (hd .write).2, (hd .write).3⟩
  reserved h hn h3 := by
    simp only [Target.updateDr, h, selectedDr_access, hn, if_true, Target.request, h3, decodeOp_three]
    exact ⟨rfl, rfl, rfl, rfl⟩
  unknown h := by
    obtain ⟨h1, h2, h3⟩ := h
    by_cases hc : t.ir = Config.opcApbControl
    · simp [Target.updateDr, hc, Target.updateControl, h2 hc]
    · by_cases ha : t.ir = Config.opcApbAccess
      · simp [Target.updateDr, ha, h3 ha]
      · simp [Target.updateDr, selectedDr, h1, hc, ha]

/-- Everything it can do to the IR, the boot step and the READ waited for. -/
theorem Target.updateDr_step (t : Target) (e : Nat) :
    t.UpdatedStep (t.updateDr e) t.shifted t.shiftReg t.history where
  keepsIr h := by
    rcases h with h | h | ⟨h, h50, h3⟩
    · simp [Target.updateDr, h]
    · simp only [Target.updateDr, h, selectedDr_control, Target.updateControl]
      repeat' split
      all_goals first | rfl | exact h
    · simp only [Target.updateDr, h, selectedDr_access, h50, if_true, Target.request]
      split
      case h_4 hop =>
        have := decodeOp_eq_none hop
        have := frameStatus_lt (valueOfBits t.shiftReg)
        omega
      all_goals rfl
  losesIr h := by
    obtain ⟨h1, h2, h3⟩ : t.ir ≠ _ ∧ t.ir ≠ _ ∧ _ := by simpa only [KeepsIr, not_or] using h
    by_cases ha : t.ir = Config.opcApbAccess
    · by_cases hn : t.shifted = 50
      · have h3' : frameStatus (valueOfBits t.shiftReg) = 3 := by
          by_contra hs
          exact h3 ⟨ha, hn, hs⟩
        simp only [Target.updateDr, ha, selectedDr_access, hn, if_true, Target.request, h3', decodeOp_three]
        rfl
      · simp [Target.updateDr, ha, hn]
    · simp [Target.updateDr, selectedDr, h1, h2, ha]
  idcode h := by simp [Target.updateDr, h]
  control h hn := by
    simp only [Target.updateDr, h, selectedDr_control, Target.updateControl, hn, if_true]
    by_cases hw : BitVec.ofNat 32 (valueOfBits t.shiftReg) = 0#32
    · simp only [hw, if_true]
      cases hb : t.boot <;> simp
    · simp [hw]
  frame h hn h3 := by
    simp only [Target.updateDr, h, selectedDr_access, hn, if_true, Target.request]
    have hlt := frameStatus_lt (valueOfBits t.shiftReg)
    obtain h0 | h1 | h2 : frameStatus (valueOfBits t.shiftReg) = 0 ∨ frameStatus (valueOfBits t.shiftReg) = 1 ∨
      frameStatus (valueOfBits t.shiftReg) = 2 := by omega
    · simp [h0, decodeOp]
    · simp [h1, decodeOp]
    · simp [h2, decodeOp]
  reserved h hn h3 := by
    simp only [Target.updateDr, h, selectedDr_access, hn, if_true, Target.request, h3, decodeOp_three]
    exact ⟨rfl, rfl⟩
  unknown h := by
    obtain ⟨h1, h2, h3⟩ := h
    by_cases hc : t.ir = Config.opcApbControl
    · simp [Target.updateDr, hc, Target.updateControl, h2 hc]
    · by_cases ha : t.ir = Config.opcApbAccess
      · simp [Target.updateDr, ha, h3 ha]
      · simp [Target.updateDr, selectedDr, h1, hc, ha]

/-! The history is what was driven, whatever the target did. -/

theorem Target.updateDr_history (t : Target) (e : Nat) : (t.updateDr e).history = t.history := by
  unfold Target.updateDr Target.updateControl Target.request
  dsimp only
  repeat' split
  all_goals rfl

theorem Target.enter_history (t : Target) (q : Tap) (e : Nat) : (t.enter q e).history = t.history := by
  unfold Target.enter
  split <;> try rfl
  exact t.updateDr_history e

theorem Target.leave_history (t : Target) (q : Tap) (d : Line) (e : Nat) : (t.leave q d e).history = t.history := by
  unfold Target.leave
  dsimp only
  split <;> try rfl
  exact (t.captureDr_frame e).2.2.2.2.2.1

theorem State.edgeStep_history (s : State) (m d : Bit) :
    (s.edgeStep m d).target.history = (s.target.record (.driven m) (.driven d)).history := by
  simp only [State.edgeStep_target, Target.edge, Target.enter_history, Target.leave_history]

/-- The same edges after the same history give the same history. -/
theorem State.driveEdges_history (es : List (Bit × Bit)) {s t : State} (h : s.target.history = t.target.history) :
    (s.driveEdges es).target.history = (t.driveEdges es).target.history := by
  induction es generalizing s t with
  | nil => exact h
  | cons e es ih =>
    refine ih (s := s.edgeStep e.1 e.2) (t := t.edgeStep e.1 e.2) ?_
    rw [State.edgeStep_history, State.edgeStep_history]
    simp [Target.record, h]

/-- `goto_shift_dr` changes nothing of the target until its last edge captures. -/
theorem State.driveEdges_gotoShiftDr_target {s : State} (d : Bit) (h : s.tap.resetOrIdle = true) :
    ∃ t : Target, s.target.SameRegisters t ∧
      (s.driveEdges (heldAt tmsGotoShiftDr d)).target = t.captureDr (s.edges + 4) := by
  refine ⟨(s.driveEdges (heldAt [false, true, false] d)).target.record (.driven false) (.driven d), ?_, ?_⟩ <;>
    rw [Tap.resetOrIdle_iff] at h <;> rcases h with h | h
  case refine_1.inl =>
    constructor <;> simp [heldAt, State.driveEdges_cons, h, Tap.next, TapState.next, Target.edge]
  case refine_1.inr =>
    constructor <;> simp [heldAt, State.driveEdges_cons, h, Tap.next, TapState.next, Target.edge]
  all_goals simp [heldAt, tmsGotoShiftDr, State.driveEdges_cons, h, Tap.next, TapState.next, Target.edge]

/-- `goto_shift_ir` leaves the target's registers alone and captures an IR of five bits. -/
theorem State.driveEdges_gotoShiftIr_target {s : State} (d : Bit) (h : s.tap.resetOrIdle = true) :
    s.target.SameRegisters (s.driveEdges (heldAt tmsGotoShiftIr d)).target ∧
      (s.driveEdges (heldAt tmsGotoShiftIr d)).target.shiftReg.length = 5 ∧
      (s.driveEdges (heldAt tmsGotoShiftIr d)).target.shifted = 0 := by
  rw [Tap.resetOrIdle_iff] at h
  rcases h with h | h <;> refine ⟨?_, ?_, ?_⟩
  case inl.refine_1 =>
    constructor <;>
      simp [heldAt, tmsGotoShiftIr, State.driveEdges_cons, h, Tap.next, TapState.next, Target.edge]
  case inr.refine_1 =>
    constructor <;>
      simp [heldAt, tmsGotoShiftIr, State.driveEdges_cons, h, Tap.next, TapState.next, Target.edge]
  all_goals simp [heldAt, tmsGotoShiftIr, State.driveEdges_cons, h, Tap.next, TapState.next, Target.edge]

/-- One shift edge. -/
theorem State.edgeStep_shift_target {s : State} {q : TapState} (hq : q = .shiftIR ∨ q = .shiftDR)
    (h : s.tap = .known q) (m b : Bit) :
    s.target.SameRegisters (s.edgeStep m b).target ∧
      (s.edgeStep m b).target.shiftReg = shiftIn s.target.shiftReg b ∧
      (s.edgeStep m b).target.shifted = s.target.shifted + 1 := by
  rcases hq with rfl | rfl <;> cases m <;>
    simp [h, Target.edge, Tap.next, TapState.next, Line.level] <;>
    exact ⟨rfl, rfl, rfl, rfl, rfl, rfl, rfl, rfl, rfl, rfl⟩

/-- A whole shift: the registers stay, the bits enter the shift register one after the other. -/
theorem State.driveEdges_shift_target {s : State} {q : TapState} (bits : BitSeq)
    (hq : q = .shiftIR ∨ q = .shiftDR) (h : s.tap = .known q) :
    s.target.SameRegisters (s.driveEdges (shiftEdges bits)).target ∧
      (s.driveEdges (shiftEdges bits)).target.shiftReg = bits.foldl shiftIn s.target.shiftReg ∧
      (s.driveEdges (shiftEdges bits)).target.shifted = s.target.shifted + bits.length := by
  induction bits generalizing s with
  | nil => exact ⟨.refl _, rfl, rfl⟩
  | cons b bs ih =>
    obtain ⟨h1, h2, h3⟩ := State.edgeStep_shift_target hq h bs.isEmpty b
    rw [shiftEdges_cons, State.driveEdges_cons]
    cases bs with
    | nil => exact ⟨h1, h2, h3⟩
    | cons c cs =>
      obtain ⟨g1, g2, g3⟩ := ih (s := s.edgeStep false b)
        (by rcases hq with rfl | rfl <;> simp [h, Tap.next, TapState.next])
      refine ⟨h1.trans g1, g2.trans ?_, g3.trans ?_⟩
      · rw [show (s.edgeStep false b).target.shiftReg = _ from h2]; rfl
      · rw [show (s.edgeStep false b).target.shifted = _ from h3]; simp; omega

/-- `return_to_idle` from Exit1IR updates the IR, from Exit1DR the data register, on its first edge. -/
theorem State.driveEdges_returnToIdle_target_ir {s : State} (d : Bit) (h : s.tap = .known .exit1IR) :
    ∃ t : Target, s.target.SameRegisters t ∧ t.shiftReg = s.target.shiftReg ∧
      t.shifted = s.target.shifted ∧ t.history = (s.edgeStep true d).target.history ∧
      t.updateIr.afterUpdate.SameRegisters (s.driveEdges (heldAt tmsReturnToIdle d)).target := by
  refine ⟨{ s.target.record (.driven true) (.driven d) with
    tdo := Config.tdo (s.target.record (.driven true) (.driven d)).history (s.edges + 1) }, ?_, rfl, rfl, (s.edgeStep_history true d).symm, ?_⟩
  · exact ⟨rfl, rfl, rfl, rfl, rfl, rfl, rfl, rfl, rfl, rfl⟩
  · constructor <;>
      simp [heldAt, tmsReturnToIdle, State.driveEdges_cons, h, Tap.next, TapState.next, Target.edge]

theorem State.driveEdges_returnToIdle_target_dr {s : State} (d : Bit) (h : s.tap = .known .exit1DR) :
    ∃ t : Target, s.target.SameRegisters t ∧ t.shiftReg = s.target.shiftReg ∧
      t.shifted = s.target.shifted ∧ t.history = (s.edgeStep true d).target.history ∧
      (t.updateDr (s.edges + 1)).afterUpdate.SameRegisters (s.driveEdges (heldAt tmsReturnToIdle d)).target := by
  refine ⟨{ s.target.record (.driven true) (.driven d) with
    tdo := Config.tdo (s.target.record (.driven true) (.driven d)).history (s.edges + 1) }, ?_, rfl, rfl, (s.edgeStep_history true d).symm, ?_⟩
  · exact ⟨rfl, rfl, rfl, rfl, rfl, rfl, rfl, rfl, rfl, rfl⟩
  · constructor <;>
      simp [heldAt, tmsReturnToIdle, State.driveEdges_cons, h, Tap.next, TapState.next, Target.edge]

/-- A whole data scan from TLR or RTI: the capture at its fourth edge, the bits shifted in, the update as the TAP
enters Update-DR at the edge after the last bit. -/
theorem State.scanned_dr_target {s : State} {bits : BitSeq} (hb : bits ≠ [])
    (h : s.tap.resetOrIdle = true) :
    ∃ t u : Target, s.target.SameRegisters t ∧ (t.captureDr (s.edges + 4)).SameRegisters u ∧
      (s.driveEdges (heldAt tmsGotoShiftDr false)).target = t.captureDr (s.edges + 4) ∧
      u.shiftReg = bits.foldl shiftIn ((t.captureDr (s.edges + 4)).beginShift bits.length).shiftReg ∧
      u.shifted = bits.length ∧
      u.history = (s.driveEdges (heldAt tmsGotoShiftDr false ++ shiftEdges bits ++ [(true, false)])).target.history ∧
      (u.updateDr (s.edges + bits.length + 5)).afterUpdate.SameRegisters (s.scanned tmsGotoShiftDr bits).target := by
  obtain ⟨t, ht, hc⟩ := State.driveEdges_gotoShiftDr_target false h
  have htap : (s.scanShift tmsGotoShiftDr bits.length).tap = .known .shiftDR :=
    State.driveEdges_gotoShiftDr_tap false h
  have hst : (s.scanShift tmsGotoShiftDr bits.length).target =
      (t.captureDr (s.edges + 4)).beginShift bits.length := by rw [← hc]; rfl
  obtain ⟨h1, h2, h3⟩ := State.driveEdges_shift_target bits (.inr rfl) htap
  obtain ⟨u, hu, hr, hn, hh, hU⟩ :=
    State.driveEdges_returnToIdle_target_dr false (State.driveEdges_shift_tap_shiftDR hb htap)
  rw [hst] at h1 h2 h3
  refine ⟨t, u, ht, (((t.captureDr _).beginShift_same _).trans h1).trans hu, hc, hr.trans h2, ?_, ?_, ?_⟩
  · rw [hn, h3, Target.beginShift_shifted, (t.captureDr_frame _).2.2.2.2.2.2.1, Nat.zero_add]
  · rw [hh, State.driveEdges_append, State.driveEdges_append]
    exact State.driveEdges_history [(true, false)]
      (State.driveEdges_history (shiftEdges bits) (by simp [State.scanShift]))
  · simpa [State.scanned, State.scanShift, tmsGotoShiftDr, Nat.add_assoc, Nat.add_comm, Nat.add_left_comm] using hU

/-- A whole IR scan from TLR or RTI: the APB side stays, and five bits become the IR. -/
theorem State.scanned_ir_target {s : State} {bits : BitSeq} (hb : bits ≠ [])
    (h : s.tap.resetOrIdle = true) :
    ∃ u : Target, s.target.SameRegisters u ∧ u.shifted = bits.length ∧
      (bits.length = 5 → u.shiftReg = bits) ∧
      u.history = (s.driveEdges (heldAt tmsGotoShiftIr false ++ shiftEdges bits ++ [(true, false)])).target.history ∧
      u.updateIr.afterUpdate.SameRegisters (s.scanned tmsGotoShiftIr bits).target := by
  obtain ⟨h0, hl, hz⟩ := State.driveEdges_gotoShiftIr_target false h
  have htap : (s.scanShift tmsGotoShiftIr bits.length).tap = .known .shiftIR :=
    State.driveEdges_gotoShiftIr_tap false h
  obtain ⟨h1, h2, h3⟩ := State.driveEdges_shift_target bits (.inl rfl) htap
  obtain ⟨u, hu, hr, hn, hh, hU⟩ :=
    State.driveEdges_returnToIdle_target_ir false (State.driveEdges_shift_tap_shiftIR hb htap)
  refine ⟨u, ((h0.trans (Target.beginShift_same _ _)).trans h1).trans hu, ?_, ?_, ?_, hU⟩
  · rw [hn, h3]; simp [State.scanShift, hz]
  · intro h5
    rw [hr, h2, State.scanShift, State.beginShift_target, Target.beginShift_of_length (h5.trans hl.symm),
      foldl_shiftIn _ _ (by omega), List.drop_of_length_le (by omega), List.nil_append]
  · rw [hh, State.driveEdges_append, State.driveEdges_append]
    exact State.driveEdges_history [(true, false)]
      (State.driveEdges_history (shiftEdges bits) (by simp [State.scanShift]))

end Sys2Proof.Machine
end

