-- ==== Sys2Proof/Laws/PerInstr.lean ====
section
/-! SUPPORT. Statements about every operation as syntax, one lemma per constructor. -/

namespace Sys2Proof.Laws.EncodedFormat

/-- An operation is encoded in the format its row of the opcode table names. -/
def Statement (i : Instr) : Prop := (encodeCall i).format = i.format

theorem reset (tdi : Bit) : Statement (.reset tdi) := rfl

theorem gotoShiftIr (tdi : Bit) : Statement (.gotoShiftIr tdi) := rfl

theorem gotoShiftDr (tdi : Bit) : Statement (.gotoShiftDr tdi) := rfl

theorem returnToIdle (tdi : Bit) : Statement (.returnToIdle tdi) := rfl

theorem shift (bitsIn : BitSeq) : Statement (.shift bitsIn) := rfl

theorem wait (n : Nat) : Statement (.wait n) := rfl

theorem writeInstruction (irBits : BitSeq) : Statement (.writeInstruction irBits) := rfl

theorem writeData (drBits : BitSeq) : Statement (.writeData drBits) := rfl

theorem bitsOf (value : Nat) (width : Int) : Statement (.bitsOf value width) := rfl

theorem valueOf (bits : BitSeq) : Statement (.valueOf bits) := rfl

theorem encode (address data : Nat) (operation : ApbOp) : Statement (.encode address data operation) := rfl

theorem decode (raw : Nat) : Statement (.decode raw) := rfl

theorem apbNone (address data : Nat) : Statement (.apbNone address data) := rfl

theorem apbRead (address data : Nat) : Statement (.apbRead address data) := rfl

theorem apbWrite (address data : Nat) : Statement (.apbWrite address data) := rfl

theorem irIdcode : Statement (.irIdcode) := rfl

theorem irApbControl : Statement (.irApbControl) := rfl

theorem irApbAccess : Statement (.irApbAccess) := rfl

end Sys2Proof.Laws.EncodedFormat
end

