-- ==== Sys2Proof/Tests/Slice0.lean ====
section
/-! SUPPORT. Tests of single steps against `95_test_vectors.md`, of the decoder against words written out from the encoding tables, and a witness for the hypotheses of every obligation that has some. -/

namespace Sys2Proof.Tests

open Sys2Proof.Machine

/-! States of the vectors' form `(tap, tms, edges)`, with serial-in 0 wherever a line is driven. -/

def at_ (q : TapState) (tms : Bit) (edges : Nat) : State :=
  { State.reset with tap := .known q, tms := .driven tms, tdi := .driven false, edges := edges }

/-- Run-Test/Idle after the boot order, the APB data register selected. -/
def booted : State :=
  { at_ .rti false 67 with target := { Target.powerUp with ir := Config.opcApbAccess, boot := .ready } }

/-- The same after a READ of address 0x10 that took no time. -/
def afterRead : State :=
  { booted with
    edges := 123
    target := { booted.target with
      scans := 1
      txns := [{ scan := 1, access := .read, address := 0x10#16, data := 0#32, issuedAt := 122, latency := 0,
                 performed := true, value := 0xABC#32, status := 0#2 }] } }

/-- The state an operation ends in. -/
def after (i : Instr) (s : State) : State :=
  match exec i s with
  | .next t => t
  | .fault _ => s
  | .refused _ => s

/-- The four columns of a V3 row. -/
def row (s : State) : Tap × Line × Line × Nat := (s.tap, s.tms, s.tdi, s.edges)

/-! WellFormed: an ill-formed operation for each check. -/

theorem test_wf_read_address_too_wide : (Instr.apbRead 0x10000 0).wellFormed = false := by decide
theorem test_wf_read_data_too_wide : (Instr.apbRead 0 0x100000000).wellFormed = false := by decide
theorem test_wf_write_address_too_wide : (Instr.apbWrite 0x10000 0).wellFormed = false := by decide
theorem test_wf_write_data_too_wide : (Instr.apbWrite 0 0x100000000).wellFormed = false := by decide
theorem test_wf_none_address_too_wide : (Instr.apbNone 0x10000 0).wellFormed = false := by decide
theorem test_wf_none_data_too_wide : (Instr.apbNone 0 0x100000000).wellFormed = false := by decide
theorem test_wf_widest_frame : (Instr.apbWrite 0xFFFF 0xFFFFFFFF).wellFormed = true := by decide

/-! Decoding: the words of R91, R95, R92 and R99 written out. -/

theorem test_decode_reset : decodeCall (.tmsSequence [(true, true), (true, true), (true, true), (true, true),
    (true, true)]) = .ok (.reset true) := by decide
theorem test_decode_goto_shift_ir : decodeCall (.tmsSequence [(false, false), (true, false), (true, false),
    (false, false), (false, false)]) = .ok (.gotoShiftIr false) := by decide
theorem test_decode_goto_shift_dr : decodeCall (.tmsSequence [(false, true), (true, true), (false, true),
    (false, true)]) = .ok (.gotoShiftDr true) := by decide
theorem test_decode_return_to_idle : decodeCall (.tmsSequence [(true, false), (false, false)]) =
    .ok (.returnToIdle false) := by decide
theorem test_decode_shift : decodeCall (.tmsSequence [(false, true), (false, true), (false, false), (true, true)]) =
    .ok (.shift [true, true, false, true]) := by decide
theorem test_decode_wait : decodeCall (.heldEdges 100) = .ok (.wait 100) := by decide
theorem test_decode_write_instruction : decodeCall (.irScan [false, true, true, false, true]) =
    .ok (.writeInstruction [false, true, true, false, true]) := by decide
theorem test_decode_write_data : decodeCall (.drScan [true, false]) = .ok (.writeData [true, false]) := by decide
theorem test_decode_bits_of : decodeCall (.bitsOf 7 (-3)) = .ok (.bitsOf 7 (-3)) := by decide
theorem test_decode_value_of : decodeCall (.valueOf [true]) = .ok (.valueOf [true]) := by decide
theorem test_decode_encode : decodeCall (.encode 0x10 0xFF 2) = .ok (.encode 0x10 0xFF .write) := by decide
theorem test_decode_decode : decodeCall (.decode 0x48D000002AF0) = .ok (.decode 0x48D000002AF0) := by decide
theorem test_decode_none_frame : decodeCall (.frame 0) = .ok (.apbNone 0 0) := by decide
theorem test_decode_read_frame : decodeCall (.frame 0x48D37AB6FBBD) = .ok (.apbRead 0x1234 0xDEADBEEF) := by decide
theorem test_decode_write_frame : decodeCall (.frame 0x3FFFFFFFFFFFE) = .ok (.apbWrite 0xFFFF 0xFFFFFFFF) := by
  decide
theorem test_decode_ir_idcode : decodeCall (.irOpcode Config.opcIdcode) = .ok .irIdcode := by
  simp [decodeCall, decodeIrOpcode]
theorem test_decode_ir_apb_control : decodeCall (.irOpcode Config.opcApbControl) = .ok .irApbControl := by
  simp [decodeCall, decodeIrOpcode, opcApbControl_ne_idcode]
theorem test_decode_ir_apb_access : decodeCall (.irOpcode Config.opcApbAccess) = .ok .irApbAccess := by
  simp [decodeCall, decodeIrOpcode, opcApbAccess_ne_idcode, opcApbAccess_ne_control]

/-- A TMS sequence of no operation, a changing serial-in, a frame of 51 bits, the reserved operation code. -/
theorem test_decode_rejects :
    decodeCall (.tmsSequence [(true, false), (true, false)]) = .error .noSuchTmsSequence ∧
      decodeCall (.tmsSequence [(true, false), (false, true)]) = .error .tdiNotHeld ∧
      decodeCall (.frame 0x4000000000000) = .error .frameTooWide ∧
      decodeCall (.frame 0x4000000003) = .error .reservedOperation ∧
      decodeCall (.encode 0 0 3) = .error .noSuchOperation := by decide

/-- Table words: the first edge leftmost; a frame of fifty bits. -/
theorem test_table_words :
    decodeTableWord 8 0b11111 = some (.reset false) ∧ decodeTableWord 8 0b01100 = some (.gotoShiftIr false) ∧
      decodeTableWord 8 0b0100 = some (.gotoShiftDr false) ∧ decodeTableWord 8 0b10 = some (.returnToIdle false) ∧
      decodeTableWord 56 0x4000000001 = some (.apbRead 0x10 0) := by decide

/-- The first call after power-up runs (R39). -/
theorem test_first_step : step (State.reset.withFetchWord 8 0b11111) =
    exec (.reset false) { State.reset with pc := 1 } := rfl

/-! V1: the bit codec. -/

theorem test_v1_1 : (after (.bitsOf 5 4) .reset).result = .bits [true, false, true, false] := by decide
theorem test_v1_3 : (after (.bitsOf 8 3) .reset).result = .bits [false, false, false] := by decide
theorem test_v1_7 : (after (.bitsOf 7 (-3)) .reset).errors = [⟨.domainError, .argument (-3)⟩] := by decide
theorem test_v1_8 : (after (.valueOf [true, true, false, true]) .reset).result = .value 11 := by decide
theorem test_v1_12 : (after (.valueOf []) .reset).errors = [⟨.domainError, .argument 0⟩] := by decide

/-! V2: the transition table. -/

theorem test_v2_5 : [false, true, false, false].foldl TapState.next .selDR = .pauseDR := by decide
theorem test_v2_4 : [true, false].foldl TapState.next .exit1IR = .rti := by decide

/-! V3: the navigator's operations. -/

theorem test_v3_1 : row (after (.reset false) .reset) = (.known .tlr, .driven true, .driven false, 5) := by decide
theorem test_v3_2 : row (after (.reset false) (at_ .shiftDR false 20)) =
    (.known .tlr, .driven true, .driven false, 25) := by decide
theorem test_v3_5 : row (after (.gotoShiftIr false) (at_ .tlr true 5)) =
    (.known .shiftIR, .driven false, .driven false, 10) := by decide
theorem test_v3_6 : row (after (.gotoShiftDr false) (at_ .rti false 60)) =
    (.known .shiftDR, .driven false, .driven false, 64) := by decide
theorem test_v3_7 : row (after (.gotoShiftDr false) (at_ .shiftDR false 9)) = row (at_ .shiftDR false 9) ∧
    (after (.gotoShiftDr false) (at_ .shiftDR false 9)).errors = [⟨.protocolStateError, .tap (.known .shiftDR)⟩] := by
  decide
theorem test_v3_8 : (after (.gotoShiftIr false) .reset).errors = [⟨.protocolStateError, .tap .unknown⟩] := by decide
theorem test_v3_9 : row (after (.returnToIdle false) (at_ .exit1IR true 15)) =
    (.known .rti, .driven false, .driven false, 17) := by decide
theorem test_v3_10 : (after (.returnToIdle false) (at_ .rti false 17)).errors =
    [⟨.protocolStateError, .tap (.known .rti)⟩] := by decide
theorem test_v3_12 : row (after (.shift [false]) (at_ .shiftIR false 10)) =
    (.known .exit1IR, .driven true, .driven false, 11) := by decide
theorem test_v3_15 : (after (.shift []) (at_ .rti false 17)).errors = [⟨.domainError, .argument 0⟩] := by decide
theorem test_v3_17 : row (after (.wait 3) (at_ .tlr true 5)) = (.known .tlr, .driven true, .driven false, 8) := by
  decide
theorem test_v3_18 : row (after (.wait 7) .reset) = (.unknown, .undriven, .undriven, 7) := by decide
theorem test_v3_20 : (after (.wait 1) (at_ .exit1DR true 12)).errors =
    [⟨.protocolStateError, .tap (.known .exit1DR)⟩] := by decide

/-- V3.11: a captured register gives the samples 0, 1, 1. -/
def captured : State :=
  { at_ .shiftDR false 9 with target := { Target.powerUp with shiftReg := [false, true, true], shifted := 0 } }

theorem test_v3_11 : (after (.shift [true, false, true]) captured).result = .bits [false, true, true] ∧
    row (after (.shift [true, false, true]) captured) = (.known .exit1DR, .driven true, .driven true, 12) := by decide

/-! V4: scans. -/

theorem test_v4_1 : row (after (.writeInstruction [false, true, true, false, true]) (at_ .tlr true 5)) =
    (.known .rti, .driven false, .driven false, 17) := by decide

/-- Opcode bit 0 is shifted first (R92): the IR holds `0b10110`. -/
theorem test_v4_1_ir :
    (after (.writeInstruction [false, true, true, false, true]) (at_ .tlr true 5)).target.ir = 0b10110#5 := rfl

theorem test_v4_4 : (after (.writeData [true]) (at_ .exit1DR true 12)).errors =
    [⟨.protocolStateError, .tap (.known .exit1DR)⟩] := by decide
theorem test_v4_5 : (after (.writeInstruction []) (at_ .rti false 17)).errors = [⟨.domainError, .argument 0⟩] := by
  decide
theorem test_write_data_ends_in_idle : row (after (.writeData [true, false]) (at_ .rti false 17)) =
    (.known .rti, .driven false, .driven false, 25) := by decide

/-! V5: the frame codec. -/

theorem test_v5_4 : (after (.encode 0x1234 0xDEADBEEF .read) .reset).result = .value 0x48D37AB6FBBD := by decide
theorem test_v5_6 : (after (.encode 0x12345 0x100000001 .read) .reset).result = .value 0x8D1400000005 := by decide
theorem test_v5_8 : (after (.decode 0x48D000002AF1) .reset).result = .reply 0xABC 1 := by decide
theorem test_v5_11 : (after (.decode 0x4000000000000) .reset).result = .reply 0 0 := by decide

/-! The frame and opcode rows outside idle raise (R181). -/

theorem test_frames_raise : (after (.apbNone 0 0) .reset).errors = [⟨.protocolStateError, .tap .unknown⟩] ∧
    (after (.apbRead 0 0) .reset).errors = [⟨.protocolStateError, .tap .unknown⟩] ∧
    (after (.apbWrite 0 0) .reset).errors = [⟨.protocolStateError, .tap .unknown⟩] := by decide
theorem test_ir_rows_raise : (after .irIdcode .reset).errors = [⟨.protocolStateError, .tap .unknown⟩] ∧
    (after .irApbControl .reset).errors = [⟨.protocolStateError, .tap .unknown⟩] ∧
    (after .irApbAccess .reset).errors = [⟨.protocolStateError, .tap .unknown⟩] := by decide

/-! The three opcodes differ (D25) wherever the gaps lie. -/

theorem test_access_gap_boundaries : Config.accessOffset 0 0 = 2 ∧ Config.accessOffset 0 29 = 31 ∧
    Config.accessOffset 30 0 = 1 ∧ Config.accessOffset 30 29 = 30 := by decide

/-! Witnesses: the hypotheses of each obligation are met together. -/

theorem test_witness_StepRunsDecodedCall :
    (∃ s c rest i, State.calls s = c :: rest ∧ decodeCall c = .ok i) ∧
      ∃ s c rest why, State.calls s = c :: rest ∧ decodeCall c = .error why :=
  ⟨⟨State.reset.withCall (.heldEdges 3), _, _, _, rfl, rfl⟩,
    ⟨State.reset.withCall (.frame 3), _, _, .reservedOperation, rfl, by decide⟩⟩

theorem test_witness_DecodeOfEncodeIsTheOperation : (Instr.apbNone 0xFFFF 0xFFFFFFFF).wellFormed = true := by decide

theorem test_witness_EncodeOfDecodeIsTheWord : decodeCall (.frame 0x3FFFFFFFFFFFE) =
    .ok (.apbWrite 0xFFFF 0xFFFFFFFF) := by decide

theorem booted_inv : booted.Inv where
  boundary :=
    { tap := by decide
      tlr := by decide
      rti := by decide
      srIn := rfl
      srOut := rfl
      unknown := by decide
      known := by decide
      errors := fun _ h => nomatch h }
  txns :=
    { scan := fun _ h => nomatch h
      issued := fun _ h => nomatch h
      latency := fun _ h => nomatch h
      distinct := .nil
      reports := fun _ h => nomatch h
      awaited := fun h => nomatch h
      stray := fun _ h => nomatch h
      unknownAt := by decide }

theorem afterRead_wellNumbered : afterRead.target.WellNumbered afterRead.edges where
  scan := by simp [afterRead]
  issued := by simp [afterRead]
  latency := by simp [afterRead]
  distinct := by simp [afterRead]
  reports := fun _ h => nomatch h
  awaited := fun h => nomatch h
  stray := fun _ h => nomatch h
  unknownAt := by decide

theorem test_witness_StepKeepsInvariant : ∃ s t : State, s.Inv ∧ s.calls ≠ [] ∧ step s = .next t :=
  ⟨booted.withCall (.heldEdges 4), _,
    ⟨⟨booted_inv.boundary.tap, booted_inv.boundary.tlr, booted_inv.boundary.rti, rfl, rfl,
      booted_inv.boundary.unknown, booted_inv.boundary.known, booted_inv.boundary.errors⟩, booted_inv.txns⟩,
    by decide, rfl⟩

theorem test_witness_EdgeStepDrivesAdvancesSamples : booted.tap ≠ .known .shiftDR := by decide

theorem test_witness_TapChangesOnlyAtEdges : booted.tms = .driven false ∧
    ∃ t, (Instr.bitsOf 5 4).format = .function ∧ exec (.bitsOf 5 4) booted = .next t := ⟨rfl, _, rfl, rfl⟩

theorem test_witness_OnlyResetMakesTapKnown : ∃ t, State.reset.tap = .unknown ∧ exec (.wait 7) .reset = .next t ∧
    ∀ tdi, Instr.wait 7 ≠ .reset tdi := ⟨_, rfl, rfl, fun _ h => nomatch h⟩

/-- From idle, and from an unknown TAP state. -/
theorem test_witness_ResetLeavesApbState :
    (∃ t, afterRead.tap ∈ [Tap.unknown, .known .tlr, .known .rti, .known .shiftIR, .known .exit1IR] ∧
      exec (.reset true) afterRead = .next t ∧ afterRead.tap ≠ .unknown) ∧
    ∃ t, State.reset.tap ∈ [Tap.unknown, .known .tlr, .known .rti, .known .shiftIR, .known .exit1IR] ∧
      exec (.reset true) .reset = .next t ∧ State.reset.tap = .unknown :=
  ⟨⟨_, by decide, rfl, by decide⟩, _, by decide, rfl, rfl⟩

/-- Exit1-DR with the APB data register selected and `n` bits of it shifted. -/
def framePart (n : Nat) (reg : BitSeq) : State :=
  { afterRead with tap := .known .exit1DR, target := { afterRead.target with shifted := n, shiftReg := reg } }

/-- A scan of the APB data register of another length than 50 bits is an update of unknown effect. -/
theorem unknownUpdate_access {n : Nat} (h : n ≠ 50) : UnknownUpdate Config.opcApbAccess n :=
  ⟨opcApbAccess_ne_idcode, fun g => absurd g opcApbAccess_ne_control, fun _ => h⟩

/-- A frame partly shifted, a whole READ frame, and the first edge of a shift that is left at once. -/
theorem test_witness_ResetPassesUpdateDr :
    (∃ t, exec (.reset false) (framePart 10 []) = .next t ∧ (framePart 10 []).tap = .known .exit1DR ∧
      UnknownUpdate (framePart 10 []).target.ir (framePart 10 []).target.shifted) ∧
    (∃ t, exec (.reset false) (framePart 50 (bitsOfNat 1 50)) = .next t ∧
      (framePart 50 (bitsOfNat 1 50)).target.shifted = 50 ∧
      frameStatus (valueOfBits (framePart 50 (bitsOfNat 1 50)).target.shiftReg) = 1) ∧
    ∃ t, exec (.reset false) captured = .next t ∧ captured.tap = .known .shiftDR :=
  ⟨⟨_, rfl, rfl, unknownUpdate_access (by decide)⟩, ⟨_, rfl, rfl, by decide⟩, _, rfl, rfl⟩

/-- The reserved operation, and a control word. -/
theorem test_witness_ResetPassesUpdateDr_reserved : ∃ t u s,
    exec (.reset false) (framePart 50 (bitsOfNat 3 50)) = .next t ∧
    frameStatus (valueOfBits (framePart 50 (bitsOfNat 3 50)).target.shiftReg) = 3 ∧
    exec (.reset false) s = .next u ∧ s.tap = .known .exit1DR ∧ s.target.ir = Config.opcApbControl ∧
    s.target.shifted = 32 :=
  ⟨_, _, { framePart 32 (bitsOfNat 0 32) with
    target := { (framePart 32 (bitsOfNat 0 32)).target with ir := Config.opcApbControl } },
    rfl, by decide, rfl, rfl, rfl, rfl⟩

theorem test_witness_ResetIsIdempotent : ∃ t u, exec (.reset false) .reset = .next t ∧ exec (.reset true) t = .next u :=
  ⟨_, _, rfl, rfl⟩

/-- Also for `goto_shift_dr`, `write_instruction`, `write_data`, the opcode rows and the frames: both legal states. -/
theorem test_witness_GotoShiftIrCompletes : (at_ .tlr true 5).tap.resetOrIdle = true ∧
    booted.tap.resetOrIdle = true := by decide

theorem test_witness_ReturnToIdleCompletes : (at_ .exit1IR true 15).tap.exit1 = true ∧
    ({ (at_ .exit1IR true 15) with target := { Target.powerUp with shifted := 5 } } : State).target.shifted = 5 ∧
    (at_ .exit1DR true 12).tap.exit1 = true := by decide

/-- From Exit1-DR: a whole NONE frame, a WRITE frame, a control word, and a frame partly shifted. -/
theorem test_witness_ReturnToIdleCompletes_dr :
    (framePart 50 (bitsOfNat 0 50)).tap = .known .exit1DR ∧
      KeepsIr (framePart 50 (bitsOfNat 0 50)).target.ir (framePart 50 (bitsOfNat 0 50)).target.shifted
        (framePart 50 (bitsOfNat 0 50)).target.shiftReg ∧
      frameStatus (valueOfBits (framePart 50 (bitsOfNat 0 50)).target.shiftReg) = 0 ∧
      frameStatus (valueOfBits (framePart 50 (bitsOfNat 2 50)).target.shiftReg) = 2 ∧
      (∃ s, State.tap s = .known .exit1DR ∧ s.target.ir = Config.opcApbControl ∧ s.target.shifted = 32) ∧
      (framePart 10 []).tap.exit1 = true ∧
      UnknownUpdate (framePart 10 []).target.ir (framePart 10 []).target.shifted :=
  ⟨rfl, .inr (.inr ⟨rfl, rfl, by decide⟩), by decide, by decide,
    ⟨{ framePart 32 [] with target := { (framePart 32 []).target with ir := Config.opcApbControl } }, rfl, rfl, rfl⟩,
    by decide, unknownUpdate_access (by decide)⟩

theorem test_witness_ShiftCompletes : ([true] : BitSeq) ≠ [] ∧ (at_ .shiftIR false 10).tap = .known .shiftIR ∧
    (at_ .shiftDR false 9).tap = .known .shiftDR := by decide

theorem test_witness_ShiftReturnsCapturedBits : ∃ t r, captured.tap = .known .shiftDR ∧ captured.target.shifted = 0 ∧
    exec (.shift [true, false, true]) captured = .next t ∧ t.result = .bits r ∧
    2 < ([true, false, true] : BitSeq).length ∧ 2 < captured.target.shiftReg.length :=
  ⟨_, _, rfl, rfl, rfl, rfl, by decide, by decide⟩

/-- The IDCODE chain under a shift longer than it, ones shifted in. -/
theorem test_witness_ShiftReturnsCapturedBits_idcode : ∃ s t r, State.tap s = .known .shiftDR ∧ s.target.shifted = 0 ∧
    exec (.shift [true, true]) s = .next t ∧ t.result = .bits r ∧ s.target.ReadsIdcodes ∧
    s.target.shiftReg.length < ([true, true] : BitSeq).length :=
  ⟨{ captured with target := { captured.target with ir := Config.opcIdcode, shiftReg := [true], fromTlr := true } },
    _, _, rfl, rfl, rfl, rfl, ⟨rfl, rfl⟩, by decide⟩

/-- The IR, and a register of three bits under a shift of one. -/
theorem test_witness_UnfixedSamplesAreTheOracles :
    (∃ t r, 0 < ([true] : BitSeq).length ∧ (at_ .shiftIR false 10).tap = .known .shiftIR ∧
      exec (.shift [true]) (at_ .shiftIR false 10) = .next t ∧ t.result = .bits r) ∧
    ∃ t r, captured.tap = .known .shiftDR ∧ ¬ captured.target.ReadsIdcodes ∧
      ([true] : BitSeq).length ≠ captured.target.shiftReg.length ∧
      exec (.shift [true]) captured = .next t ∧ t.result = .bits r :=
  ⟨⟨_, _, by decide, rfl, rfl, rfl⟩, _, _, rfl, fun h => absurd h.1 (by decide), by decide, rfl, rfl⟩

/-- The sample after the end marker of an IDCODE chain. -/
theorem test_witness_UnfixedSamplesAreTheOracles_idcode : ∃ s t r, 2 < ([true, true, true] : BitSeq).length ∧
    State.tap s = .known .shiftDR ∧ s.target.ReadsIdcodes ∧ s.target.shifted = 0 ∧ s.target.shiftReg.length < 2 ∧
    exec (.shift [true, true, true]) s = .next t ∧ t.result = .bits r :=
  ⟨{ captured with target := { captured.target with ir := Config.opcIdcode, shiftReg := [true], fromTlr := true } },
    _, _, by decide, rfl, ⟨rfl, rfl⟩, rfl, by decide, rfl, rfl⟩

theorem test_witness_WaitCompletes : State.reset.tap = .unknown ∧
    ((at_ .tlr true 5).tap = .known .tlr ∧ (at_ .tlr true 5).tms = .driven true) ∧
    booted.tap = .known .rti ∧ booted.tms = .driven false := by decide

theorem test_witness_IllegalStateRaises : (at_ .exit1DR true 12).tap.resetOrIdle = false ∧
    booted.tap.exit1 = false ∧ booted.tap.shifting = false ∧ (at_ .shiftDR false 9).tap.mayWait = false ∧
    (Instr.apbRead 0 0).format = .apbFrame50 ∧ Instr.irIdcode.format = .ir5 := by decide

theorem test_witness_EmptySequenceRaises :
    Instr.valueOf [] ∈ [Instr.shift [], .writeInstruction [], .writeData [], .valueOf []] := by decide

theorem test_witness_BlockRaisesNoHostError : ∃ t, step (booted.withCall (.drScan [])) = .next t ∧ t.errors ≠ [] :=
  ⟨_, rfl, by decide⟩

theorem test_witness_EdgeCounterOnlyAdvances : ∃ t, step (booted.withCall (encodeCall (.gotoShiftDr false))) = .next t ∧
    t.tap ≠ booted.tap := ⟨_, rfl, by decide⟩

theorem test_witness_OperationDrivesItsEncoding : ∃ es t, encodeCall (.gotoShiftDr true) = .tmsSequence es ∧
    booted.tap ≠ .unknown ∧ exec (.gotoShiftDr true) booted = .next t ∧ t.errors = booted.errors :=
  ⟨_, _, rfl, by decide, rfl, rfl⟩

theorem test_witness_OperationDrivesItsEncoding_shift : ∃ es t, encodeCall (.shift [true]) = .tmsSequence es ∧
    captured.tap ≠ .unknown ∧ exec (.shift [true]) captured = .next t ∧ t.errors = captured.errors :=
  ⟨_, _, rfl, by decide, rfl, rfl⟩

theorem test_witness_ScanIsItsThreeParts : ([true] : BitSeq) ≠ [] ∧ booted.tap.resetOrIdle = true := by decide

theorem test_witness_WriteInstructionCompletes :
    ([false, true, true, false, true] : BitSeq) ≠ [] ∧ booted.tap.resetOrIdle = true ∧
      ([false, true, true, false, true] : BitSeq).length = 5 ∧ ([true] : BitSeq).length ≠ 5 := by decide

theorem test_witness_IrOpcodesComplete : booted.tap.resetOrIdle = true ∧
    (Instr.irApbAccess, Config.opcApbAccess) ∈ [(Instr.irIdcode, Config.opcIdcode),
      (.irApbControl, Config.opcApbControl), (.irApbAccess, Config.opcApbAccess)] := ⟨by decide, by simp⟩

/-- The IDCODE chain, and a frame partly shifted. -/
theorem test_witness_WriteDataCompletes : ([true] : BitSeq) ≠ [] ∧
    (after (.reset false) .reset).tap.resetOrIdle = true ∧
    (after (.reset false) .reset).target.ir = Config.opcIdcode ∧
    KeepsIr (after (.reset false) .reset).target.ir ([true] : BitSeq).length [true] ∧
    booted.tap.resetOrIdle = true ∧ UnknownUpdate booted.target.ir ([true] : BitSeq).length :=
  ⟨by decide, by decide, rfl, .inl rfl, by decide, unknownUpdate_access (by decide)⟩

/-- Idle with the control opcode in the IR, after a `reset`. -/
def controlSelected : State :=
  { booted with target := { booted.target with ir := Config.opcApbControl, boot := .needControl } }

/-- A whole READ frame, the reserved operation, and a control word. -/
theorem test_witness_WriteDataCompletes_frame : booted.target.ir = Config.opcApbAccess ∧
    (bitsOfNat 1 50).length = 50 ∧ frameStatus (valueOfBits (bitsOfNat 1 50)) = 1 ∧
    frameStatus (valueOfBits (bitsOfNat 3 50)) = 3 ∧ ¬ KeepsIr booted.target.ir 50 (bitsOfNat 3 50) ∧
    controlSelected.target.ir = Config.opcApbControl ∧ (bitsOfNat 7 32).length = 32 :=
  ⟨rfl, by decide, by decide, by decide,
    fun h => h.elim opcApbAccess_ne_idcode fun h => h.elim opcApbAccess_ne_control fun h => h.2.2 (by decide),
    rfl, by decide⟩

/-- A control register shifted with another length. -/
theorem test_witness_WriteDataCompletes_control : controlSelected.tap.resetOrIdle = true ∧
    UnknownUpdate controlSelected.target.ir ([true] : BitSeq).length :=
  ⟨by decide, opcApbControl_ne_idcode, fun _ => by decide, fun h => absurd h.symm opcApbAccess_ne_control⟩

theorem test_witness_ControlScanWritesControl : ∃ t, controlSelected.tap.resetOrIdle = true ∧
    controlSelected.target.ir = Config.opcApbControl ∧
    exec (.writeData (bitsOfNat 0 32)) controlSelected = .next t ∧ 0 % 2 ^ 32 = 0 ∧
    controlSelected.target.boot = .needControl := ⟨_, by decide, rfl, rfl, by decide, rfl⟩

theorem test_witness_ControlScanWritesControl_nonzero : ∃ t, controlSelected.tap.resetOrIdle = true ∧
    controlSelected.target.ir = Config.opcApbControl ∧
    exec (.writeData (bitsOfNat 0xFFFFFFFF 32)) controlSelected = .next t ∧ 0xFFFFFFFF % 2 ^ 32 ≠ 0 :=
  ⟨_, by decide, rfl, rfl, by decide⟩

theorem test_witness_BootSequenceSelectsApbAccess : ∃ a b c d, exec (.reset false) .reset = .next a ∧
    exec .irApbControl a = .next b ∧ exec (.writeData (bitsOfNat 0 32)) b = .next c ∧
    exec .irApbAccess c = .next d := ⟨_, _, _, _, rfl, rfl, rfl, rfl⟩

theorem test_witness_IdcodeDiscovery : ∃ a b, exec (.reset false) .reset = .next a ∧
    (List.replicate (32 * Config.chain.length + 1) true).length = 32 * Config.chain.length + 1 ∧
    exec (.writeData (List.replicate (32 * Config.chain.length + 1) true)) a = .next b := ⟨_, _, rfl, by simp, rfl⟩

theorem test_witness_BitsOfReturnsLsbFirst : (0 : Int) ≤ 0 ∧ (0 : Int) < 1 := by decide

theorem test_witness_ValueOfReturnsWeightedSum : ([false] : BitSeq) ≠ [] := by decide

/-- V1.13's width, and V1.14, where the value does not fit. -/
theorem test_witness_BitCodecRoundTrip : ∃ t u b, 1 ≤ 8 ∧ exec (.bitsOf 0xFF 8) .reset = .next t ∧
    t.result = .bits b ∧ exec (.valueOf b) t = .next u ∧ 0xFF < 2 ^ 8 := ⟨_, _, _, by decide, rfl, rfl, rfl, by decide⟩
theorem test_witness_BitCodecRoundTrip_dropped : ∃ t u b, 1 ≤ 8 ∧ exec (.bitsOf 0x1FF 8) .reset = .next t ∧
    t.result = .bits b ∧ exec (.valueOf b) t = .next u := ⟨_, _, _, by decide, rfl, rfl, rfl⟩

theorem test_witness_BitCodecReverseRoundTrip : ∃ t u v, ([true, false] : BitSeq) ≠ [] ∧
    exec (.valueOf [true, false]) .reset = .next t ∧ t.result = .value v ∧
    exec (.bitsOf v ([true, false] : BitSeq).length) t = .next u := ⟨_, _, _, by decide, rfl, rfl, rfl⟩

theorem test_witness_ApbReadCompletes : booted.tap.resetOrIdle = true ∧ booted.target.ir = Config.opcApbAccess :=
  ⟨by decide, rfl⟩

/-- Another register selected; and `write_data` of a frame in idle and outside it. -/
theorem test_witness_ApbReadCompletes_other : controlSelected.tap.resetOrIdle = true ∧
    controlSelected.target.ir ≠ Config.opcApbAccess := ⟨by decide, opcApbAccess_ne_control.symm⟩

theorem test_witness_FrameRowsAreWriteData :
    (ApbOp.read, Instr.apbRead 16 0) ∈ [(ApbOp.none, Instr.apbNone 16 0), (.read, .apbRead 16 0),
      (.write, .apbWrite 16 0)] ∧
      booted.tap.resetOrIdle = true ∧ State.reset.tap.resetOrIdle = false := by decide

/-- `booted` once `APB_LATENCY` edges have passed: a request is performed. -/
theorem test_witness_ApbReadCompletes_performed : ∃ s, State.tap s = .known .rti ∧
    s.target.ir = Config.opcApbAccess ∧ s.target.boot = .ready ∧ (∀ y ∈ s.target.txns, y.inFlightAt (s.edges + 55) = false) ∧
    s.target.mayBeBusy (s.edges + 55) = false :=
  ⟨{ booted with edges := Config.apbLatency }, rfl, rfl, rfl, nofun, by
    simp [Target.mayBeBusy, booted, Target.powerUp]⟩

/-- With a completed READ, and with no transaction. -/
theorem test_witness_ReplyPairing :
    (∃ t, afterRead.target.WellNumbered afterRead.edges ∧ afterRead.tap.resetOrIdle = true ∧
      afterRead.target.ir = Config.opcApbAccess ∧ afterRead.target.boot = .ready ∧ (bitsOfNat 0 50).length = 50 ∧
      exec (.writeData (bitsOfNat 0 50)) afterRead = .next t ∧ ∃ x ∈ afterRead.target.txns,
        x.completedBy (afterRead.edges + 4) = true) ∧
    ∃ t, booted.target.WellNumbered booted.edges ∧ booted.tap.resetOrIdle = true ∧
      booted.target.ir = Config.opcApbAccess ∧ booted.target.boot = .ready ∧ (bitsOfNat 0 50).length = 50 ∧
      exec (.writeData (bitsOfNat 0 50)) booted = .next t ∧ booted.target.txns = [] :=
  ⟨⟨_, afterRead_wellNumbered, by decide, rfl, rfl, by decide, rfl, _, .head _, by decide⟩,
    ⟨_, booted_inv.txns, by decide, rfl, rfl, by decide, rfl, rfl⟩⟩

/-- A READ waited for long enough (R73). -/
def readAwaited : State :=
  { afterRead with edges := 200 + Config.apbLatency, target := { afterRead.target with awaited := true } }

theorem readAwaited_wellNumbered : readAwaited.target.WellNumbered readAwaited.edges where
  scan := by simp [readAwaited, afterRead]
  issued := by simp [readAwaited, afterRead]; omega
  latency := by simp [readAwaited, afterRead]
  distinct := by simp [readAwaited, afterRead]
  reports := nofun
  awaited _ := ⟨_, rfl, rfl, rfl⟩
  stray := nofun
  unknownAt := Nat.zero_le _

theorem test_witness_ReplyPairing_awaited : ∃ x t, readAwaited.target.WellNumbered readAwaited.edges ∧
    readAwaited.tap.resetOrIdle = true ∧ readAwaited.target.ir = Config.opcApbAccess ∧
    readAwaited.target.boot = .ready ∧ (bitsOfNat 0 50).length = 50 ∧
    exec (.writeData (bitsOfNat 0 50)) readAwaited = .next t ∧
    readAwaited.target.awaitedRead (readAwaited.edges + 4) = some x := by
  refine ⟨_, _, readAwaited_wellNumbered, by decide, rfl, rfl, by decide, rfl, if_pos ?_⟩
  show 122 + 5 + Config.apbLatency ≤ 200 + Config.apbLatency + 4
  omega

/-- After an update of unknown effect and a new boot (log entry 31). -/
theorem test_witness_ReplyPairing_stray : ∃ s t, s.target.WellNumbered s.edges ∧ State.tap s = .known .rti ∧
    s.target.ir = Config.opcApbAccess ∧ s.target.boot = .ready ∧ exec (.writeData (bitsOfNat 0 50)) s = .next t ∧
    s.target.stray = some 10 :=
  ⟨{ booted with target := { booted.target with stray := some 10 } }, _,
    ⟨booted_inv.txns.scan, booted_inv.txns.issued, booted_inv.txns.latency, booted_inv.txns.distinct,
      booted_inv.txns.reports, booted_inv.txns.awaited, fun _ h => by cases h; decide, booted_inv.txns.unknownAt⟩,
    rfl, rfl, rfl, rfl, rfl⟩

theorem test_witness_ReservedOperationLosesState : ∃ t h, booted.tap.resetOrIdle = true ∧
    booted.target.ir = Config.opcApbAccess ∧ (bitsOfNat 3 50).length = 50 ∧
    frameStatus (valueOfBits (bitsOfNat 3 50)) = 3 ∧ exec (.writeData (bitsOfNat 3 50)) booted = .next t ∧
    h = (booted.driveEdges (heldAt tmsGotoShiftDr false ++ shiftEdges (bitsOfNat 3 50) ++
      [(true, false)])).target.history := ⟨_, _, by decide, rfl, by decide, by decide, rfl, rfl⟩

theorem test_witness_SynchronousRead : ∃ a b c, booted.tap.resetOrIdle = true ∧
    booted.target.ir = Config.opcApbAccess ∧ booted.target.boot = .ready ∧ Config.apbLatency ≤ Config.apbLatency ∧
    (bitsOfNat 0 50).length = 50 ∧ exec (.apbRead 0x10 0) booted = .next a ∧
    exec (.wait Config.apbLatency) a = .next b ∧ exec (.writeData (bitsOfNat 0 50)) b = .next c :=
  ⟨_, _, _, by decide, rfl, rfl, le_rfl, by decide, rfl, rfl, rfl⟩

/-- The reply of `afterRead`'s next scan reports its READ: the only completed transaction (R70, R71). -/
theorem test_only_completed_read_is_paired : afterRead.target.pairing (afterRead.edges + 4) =
    afterRead.target.txns[0]? := by
  simp [Target.pairing, Target.awaitedRead, afterRead, booted, Txn.completedBy, Target.powerUp, Target.strayMayBeLatest,
    Nat.mod_one]

/-- A partly shifted frame cancels no request and leaves the target in a state that is not known (R266, R261), its control
register among the rest (I3). -/
theorem test_partial_frame_is_unknown : ((framePart 10 []).target.updateDr 13).stray = some 13 ∧
    ((framePart 10 []).target.updateDr 13).txns = afterRead.target.txns ∧
    ((framePart 10 []).target.updateDr 13).boot = .needReset ∧
    ((framePart 10 []).target.updateDr 13).control = Config.freeControl (framePart 10 []).target.history := by
  simp [Target.updateDr, framePart, afterRead, booted, at_]

/-- The end of the IDCODE chain samples 0 after Test-Logic-Reset, whatever was shifted in (R47), and any value in a later
scan of another length (I5). -/
theorem test_idcode_end (free fromTlr : Bit) : Target.serialOut free { captured.target with
    ir := Config.opcIdcode, shiftReg := [true], shifted := 1, fromTlr := fromTlr } = (!fromTlr && free) := by
  cases fromTlr <;> simp [Target.serialOut]

/-- A second scan of the IDCODE chain does not enter Shift-DR from Test-Logic-Reset (R47). -/
theorem test_rescan_is_not_from_tlr : (after (.reset false) .reset).target.fromTlr = true ∧
    (after (.writeData [false]) (after (.reset false) .reset)).target.fromTlr = false := ⟨rfl, rfl⟩

end Sys2Proof.Tests
end

namespace Sys2Proof.Machine

/-! Family 30_encoding: the pseudo-instructions are their expansions (R105), and a frame is assembled field by field
(R96). -/

/-! Edges neither read nor write the result latch, so an operation's result does not reach the next operation. -/

theorem State.driveEdges_returns (es : List (Bit × Bit)) (r : Result) (s : State) :
    (s.returns r).driveEdges es = (s.driveEdges es).returns r := by
  induction es generalizing s with
  | nil => rfl
  | cons e es ih => exact ih (s.edgeStep e.1 e.2)

theorem State.samples_returns (es : List (Bit × Bit)) (r : Result) (s : State) :
    State.samples es (s.returns r) = State.samples es s := by
  induction es generalizing s with
  | nil => rfl
  | cons e es ih => exact congrArg (_ :: ·) (ih (s.edgeStep e.1 e.2))

@[simp] theorem State.returns_returns (s : State) (r r' : Result) : (s.returns r).returns r' = s.returns r' := rfl

theorem State.beginShift_returns (s : State) (r : Result) (n : Nat) :
    (s.returns r).beginShift n = (s.beginShift n).returns r := rfl

theorem State.setShiftReg_returns (s : State) (r : Result) (i o : BitSeq) :
    (s.returns r).setShiftReg i o = (s.setShiftReg i o).returns r := rfl

/-- A complete shift ends where `return_to_idle` is legal (R149, R150). -/
theorem State.driveEdges_shift_tap_exit1 {s : State} {bits : BitSeq} (hb : bits ≠ []) (h : s.tap.shifting = true) :
    (s.driveEdges (shiftEdges bits)).tap.exit1 = true := by
  rw [Tap.exit1_iff]
  rcases (Tap.shifting_iff _).mp h with h | h
  · exact .inl (State.driveEdges_shift_tap_shiftIR hb h)
  · exact .inr (State.driveEdges_shift_tap_shiftDR hb h)

/-- `shift` after a goto sequence that ended in a Shift state hands back the samples of the whole scan. -/
theorem exec_shift_after_goto {s : State} {goto bits : BitSeq} (hb : bits ≠ [])
    (h : (s.driveEdges (heldAt goto false)).tap.shifting = true) :
    exec (.shift bits) ((s.driveEdges (heldAt goto false)).returns .nothing) =
      .next ((((s.scanShift goto bits.length).driveEdges (shiftEdges bits)).setShiftReg [] []).returns
        (.bits (State.samples (shiftEdges bits) (s.scanShift goto bits.length)))) := by
  rw [exec_shift_of_legal (s := (s.driveEdges _).returns .nothing) hb h, State.beginShift_returns,
    State.driveEdges_returns, State.samples_returns, State.setShiftReg_returns, State.returns_returns, State.scanShift]

/-- `return_to_idle` after that `shift`, whatever it handed back, ends where the whole scan ends. -/
theorem exec_returnToIdle_after_shift {s : State} {goto bits : BitSeq} (r : Result) (hb : bits ≠ [])
    (h : (s.driveEdges (heldAt goto false)).tap.shifting = true) :
    exec (.returnToIdle false)
        ((((s.scanShift goto bits.length).driveEdges (shiftEdges bits)).setShiftReg [] []).returns r) =
      .next (((s.scanned goto bits).setShiftReg [] []).returns .nothing) := by
  have hexit : ((s.scanShift goto bits.length).driveEdges (shiftEdges bits)).tap.exit1 = true :=
    State.driveEdges_shift_tap_exit1 hb h
  rw [exec_returnToIdle_of_legal (s := (State.setShiftReg [] [] _).returns r) false hexit, State.driveEdges_returns,
    State.driveEdges_setShiftReg, State.returns_returns, State.scanned]

theorem exec_writeInstruction_of_legal {s : State} {bits : BitSeq} (hb : bits ≠ []) (h : s.tap.resetOrIdle = true) :
    exec (.writeInstruction bits) s = .next (((s.scanned tmsGotoShiftIr bits).setShiftReg [] []).returns .nothing) := by
  rw [exec, execWriteInstruction, State.writeInstruction_of_legal hb h]

theorem exec_writeData_of_legal {s : State} {bits : BitSeq} (hb : bits ≠ []) (h : s.tap.resetOrIdle = true) :
    exec (.writeData bits) s =
      .next (((s.scanned tmsGotoShiftDr bits).setShiftReg [] []).returns
        (.bits (State.samples (shiftEdges bits) (s.scanShift tmsGotoShiftDr bits.length)))) := by
  rw [exec, execWriteData, State.writeData_of_legal _ hb h]

/-- Settles O28: each part of the expansion is legal where the one before it ended, and the results handed back in
between do not matter to the next part. -/
theorem scanIsItsThreeParts : Obligations.ScanIsItsThreeParts := by
  intro s bits hb hlegal
  have hir : (s.driveEdges (heldAt tmsGotoShiftIr false)).tap.shifting = true :=
    (Tap.shifting_iff _).mpr (.inl (State.driveEdges_gotoShiftIr_tap false hlegal))
  have hdr : (s.driveEdges (heldAt tmsGotoShiftDr false)).tap.shifting = true :=
    (Tap.shifting_iff _).mpr (.inr (State.driveEdges_gotoShiftDr_tap false hlegal))
  exact ⟨⟨_, _, _, exec_gotoShiftIr_of_legal false hlegal, exec_shift_after_goto hb hir,
      exec_returnToIdle_after_shift _ hb hir, exec_writeInstruction_of_legal hb hlegal⟩,
    ⟨_, _, _, exec_gotoShiftDr_of_legal false hlegal, exec_shift_after_goto hb hdr,
      exec_returnToIdle_after_shift _ hb hdr, exec_writeData_of_legal hb hlegal⟩⟩

/-! The two frame functions change the result alone (R200, R201). -/

theorem exec_encode (address data : Nat) (op : ApbOp) (s : State) :
    exec (.encode address data op) s = .next (s.returns (.value (encodeFrame address data op))) := rfl

theorem exec_decode (raw : Nat) (s : State) :
    exec (.decode raw) s = .next (s.returns (.reply (frameData raw) (frameStatus raw))) := rfl

/-- Settles O39: the two meanings, with the masks and shifts of the frame's fields written out. -/
theorem frameAssembly : Obligations.FrameAssembly :=
  fun s address data raw op => ⟨exec_encode address data op s, exec_decode raw s⟩

end Sys2Proof.Machine

namespace Sys2Proof.Machine

/-! Family 60_exceptions: what a step can add to the error record (R233). -/

/-- `t`'s error record is that of `s` with new entries appended, each of a kind the block raises (R233, R235). -/
def State.AppendsBlockErrors (s t : State) : Prop :=
  ∃ new, t.errors = s.errors ++ new ∧ ∀ e ∈ new, e.kind.raisedByBlock = true

namespace State.AppendsBlockErrors

theorem of_errors_eq {s t : State} (h : t.errors = s.errors) : s.AppendsBlockErrors t :=
  ⟨[], by rw [h, List.append_nil], nofun⟩

theorem raise {kind : ErrorKind} (info : ErrorInfo) (s : State) (h : kind.raisedByBlock = true) :
    s.AppendsBlockErrors (s.raise kind info) :=
  ⟨[⟨kind, info⟩], rfl, fun e he => by rw [List.mem_singleton.mp he]; exact h⟩

theorem requireTap (legal : Tap → Bool) {body : State → State} {s : State} (h : (body s).errors = s.errors) :
    s.AppendsBlockErrors (s.requireTap legal body) := by
  rcases s.requireTap_cases legal body with ⟨-, heq⟩ | ⟨-, heq⟩ <;> rw [heq]
  · exact of_errors_eq h
  · exact raise _ s rfl

theorem requireBits (bits : BitSeq) {body : State → State} {s : State} (h : s.AppendsBlockErrors (body s)) :
    s.AppendsBlockErrors (s.requireBits bits body) := by
  rcases s.requireBits_cases bits body with ⟨-, heq⟩ | ⟨-, heq⟩ <;> rw [heq]
  · exact h
  · exact raise _ s rfl

theorem writeInstruction (bits : BitSeq) (s : State) : s.AppendsBlockErrors (s.writeInstruction bits) := by
  rcases s.writeInstruction_cases bits with ⟨-, -, heq⟩ | ⟨kind, info, hkind, heq⟩ <;> rw [heq]
  · exact of_errors_eq (s.scanned_errors tmsGotoShiftIr bits)
  · exact raise info s hkind

theorem writeData (bits : BitSeq) (use : BitSeq → Result) (s : State) :
    s.AppendsBlockErrors (s.writeData bits use) := by
  rcases s.writeData_cases bits use with ⟨-, -, heq⟩ | ⟨kind, info, hkind, heq⟩ <;> rw [heq]
  · exact of_errors_eq (s.scanned_errors tmsGotoShiftDr bits)
  · exact raise info s hkind

end State.AppendsBlockErrors

theorem State.shiftBody_errors (bits : BitSeq) (s : State) : (s.shiftBody bits).1.errors = s.errors := by
  simp [State.shiftBody_eq]

theorem State.heldEdges_errors (n : Nat) (s : State) : (s.heldEdges n).errors = s.errors :=
  (s.heldEdges_frame n).1.errors

/-- Every operation answers a next state, and the errors it appends are of the block's own kinds. -/
theorem exec_appendsBlockErrors (i : Instr) (s : State) : ∃ t, exec i s = .next t ∧ s.AppendsBlockErrors t := by
  cases i with
  | reset d => exact ⟨_, rfl, .of_errors_eq (s.driveEdges_errors (heldAt tmsReset d))⟩
  | gotoShiftIr d => exact ⟨_, rfl, .requireTap _ (s.driveEdges_errors (heldAt tmsGotoShiftIr d))⟩
  | gotoShiftDr d => exact ⟨_, rfl, .requireTap _ (s.driveEdges_errors (heldAt tmsGotoShiftDr d))⟩
  | returnToIdle d => exact ⟨_, rfl, .requireTap _ (s.driveEdges_errors (heldAt tmsReturnToIdle d))⟩
  | shift bits => exact ⟨_, rfl, .requireBits bits (.requireTap _ (s.shiftBody_errors bits))⟩
  | wait n => exact ⟨_, rfl, .requireTap _ (s.heldEdges_errors n)⟩
  | writeInstruction bits => exact ⟨_, rfl, .writeInstruction bits s⟩
  | writeData bits => exact ⟨_, rfl, .writeData bits _ s⟩
  | bitsOf value width =>
    refine ⟨_, rfl, ?_⟩
    split
    · exact .raise _ s rfl
    · exact .of_errors_eq rfl
  | valueOf bits => exact ⟨_, rfl, .requireBits bits (.of_errors_eq rfl)⟩
  | encode address data operation => exact ⟨_, rfl, .of_errors_eq rfl⟩
  | decode raw => exact ⟨_, rfl, .of_errors_eq rfl⟩
  | apbNone address data => exact ⟨_, rfl, .writeData _ _ s⟩
  | apbRead address data => exact ⟨_, rfl, .writeData _ _ s⟩
  | apbWrite address data => exact ⟨_, rfl, .writeData _ _ s⟩
  | irIdcode => exact ⟨_, rfl, .writeInstruction _ s⟩
  | irApbControl => exact ⟨_, rfl, .writeInstruction _ s⟩
  | irApbAccess => exact ⟨_, rfl, .writeInstruction _ s⟩

/-- A step that answers a next state had no call pending, or ran the operation its call decodes to (R39, R260). -/
theorem step_next_cases {s t : State} (h : step s = .next t) :
    s.calls = [] ∧ t = s ∨
      ∃ c rest i, s.calls = c :: rest ∧ decodeCall c = .ok i ∧
        exec i { s with calls := rest, pc := s.pc + 1 } = .next t := by
  cases hcalls : s.calls with
  | nil =>
    simp only [step, State.takeCall, hcalls, Host.Outcome.next.injEq] at h
    exact .inl ⟨rfl, h.symm⟩
  | cons c rest =>
    cases hdec : decodeCall c with
    | ok i =>
      simp only [step, State.takeCall, hcalls, hdec] at h
      exact .inr ⟨c, rest, i, rfl, hdec, h⟩
    | error why => simp [step, State.takeCall, hcalls, hdec] at h

/-- Taking a call leaves the error record alone, so a step appends what its operation appends. -/
theorem step_appendsBlockErrors {s t : State} (h : step s = .next t) : s.AppendsBlockErrors t := by
  rcases step_next_cases h with ⟨-, rfl⟩ | ⟨c, rest, i, -, -, hexec⟩
  · exact .of_errors_eq rfl
  · obtain ⟨u, hu, happ⟩ := exec_appendsBlockErrors i { s with calls := rest, pc := s.pc + 1 }
    cases hu.symm.trans hexec
    exact happ

/-- None of the three host kinds is among those the block raises (R233). -/
theorem ErrorKind.not_host_of_raisedByBlock {k : ErrorKind} (h : k.raisedByBlock = true) :
    k ≠ .protocolTimeoutError ∧ k ≠ .accessStatusError ∧ k ≠ .timingInconsistencyError := by
  refine ⟨?_, ?_, ?_⟩ <;> rintro rfl <;> cases h

/-- Settles O25: a step appends only errors of the block's own kinds, and none of the three host kinds is one. -/
theorem blockRaisesNoHostError : Obligations.BlockRaisesNoHostError := by
  intro s t h
  obtain ⟨new, happ, hnew⟩ := step_appendsBlockErrors h
  exact ⟨new, happ, fun e he => ErrorKind.not_host_of_raisedByBlock (hnew e he)⟩

end Sys2Proof.Machine

namespace Sys2Proof.Machine

/-! Family 30_encoding: the decoder and the encoder undo each other (R90 to R99). -/

/-! TMS rows. -/

theorem decodeTms_shiftEdges (bits : BitSeq) : decodeTms (shiftEdges bits) = .ok (.shift bits) := by
  simp [decodeTms]

theorem decodeTms_heldAt_reset (d : Bit) : decodeTms (heldAt tmsReset d) = .ok (.reset d) := by
  cases d <;> decide

theorem decodeTms_heldAt_gotoShiftIr (d : Bit) : decodeTms (heldAt tmsGotoShiftIr d) = .ok (.gotoShiftIr d) := by
  cases d <;> decide

theorem decodeTms_heldAt_gotoShiftDr (d : Bit) : decodeTms (heldAt tmsGotoShiftDr d) = .ok (.gotoShiftDr d) := by
  cases d <;> decide

theorem decodeTms_heldAt_returnToIdle (d : Bit) : decodeTms (heldAt tmsReturnToIdle d) = .ok (.returnToIdle d) := by
  cases d <;> decide

/-- Pairs whose TMS values are those of a complete shift are the edges of the shift of their TDI values. -/
theorem shiftEdges_map_snd {es : List (Bit × Bit)} (h : es.map Prod.fst = tmsShift es.length) :
    shiftEdges (es.map Prod.snd) = es := by
  rw [shiftEdges, List.length_map, ← h]
  exact (List.zip_of_prod rfl rfl).symm

theorem eq_of_mem_of_heldTdi {l : BitSeq} {d : Bit} (h : heldTdi l = some d) : ∀ b ∈ l, b = d := by
  cases l with
  | nil => cases h
  | cons b rest =>
    simp only [heldTdi, Option.ite_none_right_eq_some, Option.some.injEq] at h
    obtain ⟨hrest, rfl⟩ := h
    intro c hc
    rcases List.mem_cons.mp hc with rfl | hc
    · rfl
    · rw [hrest] at hc
      exact List.eq_of_mem_replicate hc

/-- Pairs whose TDI values are held are the edges of their TMS sequence with serial-in held. -/
theorem heldAt_map_fst {es : List (Bit × Bit)} {d : Bit} (h : heldTdi (es.map Prod.snd) = some d) :
    heldAt (es.map Prod.fst) d = es := by
  have hd := eq_of_mem_of_heldTdi h
  rw [heldAt, List.map_map]
  refine (List.map_congr_left fun e he => ?_).trans (List.map_id es)
  exact Prod.ext rfl (hd e.2 (List.mem_map_of_mem he)).symm

/-- What a TMS sequence can decode to: the shift of its TDI values, or one of the four rows with serial-in held. -/
theorem decodeTms_eq_ok {es : List (Bit × Bit)} {i : Instr} (h : decodeTms es = .ok i) :
    i = .shift (es.map Prod.snd) ∧ es.map Prod.fst = tmsShift es.length ∨
      ∃ d, heldTdi (es.map Prod.snd) = some d ∧
        (i = .reset d ∧ es.map Prod.fst = tmsReset ∨ i = .gotoShiftIr d ∧ es.map Prod.fst = tmsGotoShiftIr ∨
          i = .gotoShiftDr d ∧ es.map Prod.fst = tmsGotoShiftDr ∨
          i = .returnToIdle d ∧ es.map Prod.fst = tmsReturnToIdle) := by
  simp only [decodeTms] at h
  split at h
  next hshift => cases h; exact .inl ⟨rfl, hshift⟩
  next =>
    split at h
    next hrow =>
      split at h
      next => cases h
      next d hd =>
        refine .inr ⟨d, hd, ?_⟩
        split at h
        next h1 => cases h; exact .inl ⟨rfl, h1⟩
        next h1 =>
          split at h
          next h2 => cases h; exact .inr (.inl ⟨rfl, h2⟩)
          next h2 =>
            split at h
            next h3 => cases h; exact .inr (.inr (.inl ⟨rfl, h3⟩))
            next h3 => cases h; exact .inr (.inr (.inr ⟨rfl, by simpa [h1, h2, h3] using hrow⟩))
    next => cases h

theorem encodeCall_of_decodeTms {es : List (Bit × Bit)} {i : Instr} (h : decodeTms es = .ok i) :
    encodeCall i = .tmsSequence es ∧ i.wellFormed = true := by
  rcases decodeTms_eq_ok h with ⟨rfl, htms⟩ | ⟨d, hd, hrow⟩
  · exact ⟨congrArg CallWord.tmsSequence (shiftEdges_map_snd htms), rfl⟩
  · have hes := congrArg CallWord.tmsSequence (heldAt_map_fst hd)
    rcases hrow with ⟨rfl, htms⟩ | ⟨rfl, htms⟩ | ⟨rfl, htms⟩ | ⟨rfl, htms⟩ <;>
      exact ⟨by rw [← hes, htms]; rfl, rfl⟩

/-! Frame rows: the three fields of a frame (R95, R200, R201). -/

theorem encodeFrame_lt (a d : Nat) (op : ApbOp) : encodeFrame a d op < 2 ^ 50 := by
  have := apbOp_code_lt op
  rw [encodeFrame_eq]
  omega

@[simp] theorem frameData_encodeFrame (a d : Nat) (op : ApbOp) : frameData (encodeFrame a d op) = d % 2 ^ 32 := by
  have := apbOp_code_lt op
  rw [frameData_eq, encodeFrame_eq]
  omega

@[simp] theorem frameStatus_encodeFrame (a d : Nat) (op : ApbOp) : frameStatus (encodeFrame a d op) = op.code := by
  have := apbOp_code_lt op
  rw [frameStatus_eq, encodeFrame_eq]
  omega

@[simp] theorem frameAddress_encodeFrame (a d : Nat) (op : ApbOp) :
    frameAddress (encodeFrame a d op) = a % 2 ^ 16 := by
  have := apbOp_code_lt op
  rw [frameAddress_eq, encodeFrame_eq]
  omega

theorem encodeFrame_mod (a d : Nat) (op : ApbOp) :
    encodeFrame (a % 2 ^ 16) (d % 2 ^ 32) op = encodeFrame a d op := by
  simp only [encodeFrame_eq, Nat.mod_mod]

/-- A frame is assembled from its own fields. -/
theorem encodeFrame_fields {raw : Nat} {op : ApbOp} (hlt : raw < 2 ^ 50) (hop : decodeOp (frameStatus raw) = some op) :
    encodeFrame (frameAddress raw) (frameData raw) op = raw := by
  rw [encodeFrame_eq, decodeOp_eq_some hop, frameAddress_eq, frameData_eq, frameStatus_eq]
  omega

theorem frameFieldsFit_fields (raw : Nat) : frameFieldsFit (frameAddress raw) (frameData raw) = true := by
  rw [frameFieldsFit_iff, frameAddress_eq, frameData_eq]
  exact ⟨Nat.mod_lt _ (by decide), Nat.mod_lt _ (by decide)⟩

/-- The frame row of an operation with these fields. -/
def frameRow (address data : Nat) : ApbOp → Instr
  | .none => .apbNone address data
  | .read => .apbRead address data
  | .write => .apbWrite address data

theorem encodeCall_frameRow (a d : Nat) (op : ApbOp) : encodeCall (frameRow a d op) = .frame (encodeFrame a d op) := by
  cases op <;> rfl

theorem wellFormed_frameRow (a d : Nat) (op : ApbOp) : (frameRow a d op).wellFormed = frameFieldsFit a d := by
  cases op <;> rfl

theorem decodeFrameCall_encodeFrame {a d : Nat} (op : ApbOp) (h : frameFieldsFit a d = true) :
    decodeFrameCall (encodeFrame a d op) = .ok (frameRow a d op) := by
  obtain ⟨ha, hd⟩ := (frameFieldsFit_iff a d).mp h
  rw [decodeFrameCall, if_pos (encodeFrame_lt a d op), frameStatus_encodeFrame, decodeOp_code,
    frameAddress_encodeFrame, frameData_encodeFrame, Nat.mod_eq_of_lt ha, Nat.mod_eq_of_lt hd]
  cases op <;> rfl

theorem decodeFrameCall_eq_ok {raw : Nat} {i : Instr} (h : decodeFrameCall raw = .ok i) :
    raw < 2 ^ 50 ∧ ∃ op, decodeOp (frameStatus raw) = some op ∧ i = frameRow (frameAddress raw) (frameData raw) op := by
  unfold decodeFrameCall at h
  split at h
  next hlt =>
    refine ⟨hlt, ?_⟩
    split at h
    case h_4 => cases h
    all_goals cases h; exact ⟨_, ‹_›, rfl⟩
  next => cases h

theorem encodeCall_of_decodeFrameCall {raw : Nat} {i : Instr} (h : decodeFrameCall raw = .ok i) :
    encodeCall i = .frame raw ∧ i.wellFormed = true := by
  obtain ⟨hlt, op, hop, rfl⟩ := decodeFrameCall_eq_ok h
  rw [encodeCall_frameRow, wellFormed_frameRow, encodeFrame_fields hlt hop]
  exact ⟨rfl, frameFieldsFit_fields raw⟩

/-! IR rows (R92): the three opcodes are distinct. -/

theorem decodeIrOpcode_idcode : decodeIrOpcode Config.opcIdcode = .ok .irIdcode := if_pos rfl

theorem decodeIrOpcode_control : decodeIrOpcode Config.opcApbControl = .ok .irApbControl := by
  rw [decodeIrOpcode, if_neg opcApbControl_ne_idcode, if_pos rfl]

theorem decodeIrOpcode_access : decodeIrOpcode Config.opcApbAccess = .ok .irApbAccess := by
  rw [decodeIrOpcode, if_neg opcApbAccess_ne_idcode, if_neg opcApbAccess_ne_control, if_pos rfl]

theorem encodeCall_of_decodeIrOpcode {opcode : BitVec 5} {i : Instr} (h : decodeIrOpcode opcode = .ok i) :
    encodeCall i = .irOpcode opcode ∧ i.wellFormed = true := by
  unfold decodeIrOpcode at h
  split at h
  next h1 => cases h; exact ⟨by rw [h1]; rfl, rfl⟩
  next =>
    split at h
    next h2 => cases h; exact ⟨by rw [h2]; rfl, rfl⟩
    next =>
      split at h
      next h3 => cases h; exact ⟨by rw [h3]; rfl, rfl⟩
      next => cases h

/-- Settles O4: one case per operation; the rows of fixed TMS are finite checks, a shift, a frame and an opcode are
recovered from their own parts, and the other words hold their operands as they are. -/
theorem decodeOfEncodeIsTheOperation : Obligations.DecodeOfEncodeIsTheOperation := by
  intro i hwf
  cases i with
  | reset d => exact decodeTms_heldAt_reset d
  | gotoShiftIr d => exact decodeTms_heldAt_gotoShiftIr d
  | gotoShiftDr d => exact decodeTms_heldAt_gotoShiftDr d
  | returnToIdle d => exact decodeTms_heldAt_returnToIdle d
  | shift bits => exact decodeTms_shiftEdges bits
  | wait n => rfl
  | writeInstruction bits => rfl
  | writeData bits => rfl
  | bitsOf v w => rfl
  | valueOf bits => rfl
  | encode a d op => simp [encodeCall, decodeCall]
  | decode raw => rfl
  | apbNone a d => exact decodeFrameCall_encodeFrame .none hwf
  | apbRead a d => exact decodeFrameCall_encodeFrame .read hwf
  | apbWrite a d => exact decodeFrameCall_encodeFrame .write hwf
  | irIdcode => exact decodeIrOpcode_idcode
  | irApbControl => exact decodeIrOpcode_control
  | irApbAccess => exact decodeIrOpcode_access

/-- Settles O5: one case per kind of call word. -/
theorem encodeOfDecodeIsTheWord : Obligations.EncodeOfDecodeIsTheWord := by
  intro c i h
  cases c with
  | tmsSequence es => exact encodeCall_of_decodeTms h
  | frame raw => exact encodeCall_of_decodeFrameCall h
  | irOpcode opcode => exact encodeCall_of_decodeIrOpcode h
  | encode a d n =>
    simp only [decodeCall] at h
    split at h
    next op hop => cases h; exact ⟨congrArg _ (decodeOp_eq_some hop), rfl⟩
    next => cases h
  | heldEdges n => cases h; exact ⟨rfl, rfl⟩
  | irScan bits => cases h; exact ⟨rfl, rfl⟩
  | drScan bits => cases h; exact ⟨rfl, rfl⟩
  | bitsOf v w => cases h; exact ⟨rfl, rfl⟩
  | valueOf bits => cases h; exact ⟨rfl, rfl⟩
  | decode raw => cases h; exact ⟨rfl, rfl⟩

/-- Settles O3: finite checks of the decoder. -/
theorem specWordsDecode : Obligations.SpecWordsDecode := by
  refine ⟨?_, ?_, ?_, ?_, ?_, ?_⟩ <;> decide

/-- Settles O41: the frame's bound and its three fields. -/
theorem frameCodecLaws : Obligations.FrameCodecLaws := fun a d op =>
  ⟨encodeFrame_lt a d op, frameData_encodeFrame a d op, frameStatus_encodeFrame a d op,
    frameAddress_encodeFrame a d op, (encodeFrame_mod a d op).symm⟩

/-- Settles O40: the status field of a frame is the operation's code. -/
theorem requestOperationField : Obligations.RequestOperationField := by
  refine fun a d => ⟨frameStatus_encodeFrame a d .none, frameStatus_encodeFrame a d .read,
    frameStatus_encodeFrame a d .write, fun op => ?_⟩
  rw [frameStatus_encodeFrame]
  cases op <;> decide

/-- Settles O45: a frame row reads its operands through the frame only, which masks them (R200). -/
theorem frameOperandsAreMasked : Obligations.FrameOperandsAreMasked := fun s a d => by
  simp only [exec, execApbNone, execApbRead, execApbWrite, frameBits, encodeFrame_mod, and_self]

end Sys2Proof.Machine

namespace Sys2Proof.Machine

/-! Family 40_bit_codec: `bits_of` and `value_of` (R120 to R123). -/

theorem valueOfBits_bitsOfNat (v w : Nat) : valueOfBits (bitsOfNat v w) = v % 2 ^ w := by
  induction w generalizing v with
  | zero => simp [Nat.mod_one]
  | succ w ih =>
    rw [bitsOfNat_succ, valueOfBits_cons, ih, Nat.toNat_testBit, Nat.pow_succ', Nat.mod_mul, Nat.pow_zero,
      Nat.div_one]

theorem bitsOfNat_valueOfBits (bits : BitSeq) : bitsOfNat (valueOfBits bits) bits.length = bits := by
  induction bits with
  | nil => rfl
  | cons b bs ih =>
    have hb := b.toNat_lt
    have hbit : (valueOfBits (b :: bs)).testBit 0 = b := by
      rw [valueOfBits_cons, Nat.testBit_zero]
      cases b <;> simp
    have hrest : valueOfBits (b :: bs) / 2 = valueOfBits bs := by
      rw [valueOfBits_cons]
      omega
    rw [List.length_cons, bitsOfNat_succ, hbit, hrest, ih]

theorem valueOfBits_eq_sum (bits : BitSeq) :
    valueOfBits bits = ∑ i : Fin bits.length, bits[i].toNat * 2 ^ i.val := by
  induction bits with
  | nil => rfl
  | cons b bs ih =>
    rw [valueOfBits_cons, ih, Finset.mul_sum]
    refine Eq.trans ?_ (Fin.sum_univ_succ (n := bs.length) fun i => (b :: bs)[i.val].toNat * 2 ^ i.val).symm
    simp [Nat.pow_succ', Nat.mul_left_comm]

theorem exec_bitsOf_of_nonpos {width : Int} (value : Nat) (s : State) (h : width ≤ 0) :
    exec (.bitsOf value width) s = .next (s.raise .domainError (.argument width)) :=
  congrArg Host.Outcome.next (if_pos h)

theorem exec_bitsOf_of_pos {width : Int} (value : Nat) (s : State) (h : 0 < width) :
    exec (.bitsOf value width) s = .next (s.returns (.bits (bitsOfNat value width.toNat))) :=
  congrArg Host.Outcome.next (if_neg (Int.not_le.mpr h))

theorem exec_valueOf_of_nonempty {bits : BitSeq} (s : State) (h : bits ≠ []) :
    exec (.valueOf bits) s = .next (s.returns (.value (valueOfBits bits))) :=
  congrArg Host.Outcome.next (State.requireBits_of_nonempty s _ h)

theorem toNat_bitsOfNat_getElem (v w i : Nat) (h : i < (bitsOfNat v w).length) :
    (bitsOfNat v w)[i].toNat = (v >>> i) &&& 1 := by
  rw [bitsOfNat_getElem, Nat.toNat_testBit, Nat.shiftRight_eq_div_pow, Nat.and_one_is_mod]

/-- Settles O35: the width alone decides between the error and the bits. -/
theorem bitsOfReturnsLsbFirst : Obligations.BitsOfReturnsLsbFirst := by
  refine fun s value width => ⟨exec_bitsOf_of_nonpos value s, fun hpos => ⟨_, exec_bitsOf_of_pos value s hpos, ?_, ?_⟩⟩
  · rw [bitsOfNat_length, Int.toNat_of_nonneg hpos.le]
  · exact toNat_bitsOfNat_getElem value width.toNat

/-- Settles O36: the recursion of `value_of` is the sum of the weights. -/
theorem valueOfReturnsWeightedSum : Obligations.ValueOfReturnsWeightedSum := fun s bits hb =>
  ⟨_, exec_valueOf_of_nonempty s hb, valueOfBits_lt bits, valueOfBits_eq_sum bits⟩

/-- Settles O37: `value_of` of the bits of `v` is `v` modulo `2^w`. -/
theorem bitCodecRoundTrip : Obligations.BitCodecRoundTrip := by
  intro s t u v w b hw ht hb hu
  cases (exec_bitsOf_of_pos v s (Int.natCast_pos.mpr hw)).symm.trans ht
  cases hb
  have hne : bitsOfNat v w ≠ [] := by
    rw [← List.length_pos_iff, bitsOfNat_length]
    exact hw
  cases (exec_valueOf_of_nonempty _ hne).symm.trans hu
  have hv := congrArg Result.value (valueOfBits_bitsOfNat v w)
  exact ⟨hv, fun hlt => hv.trans (by rw [Nat.mod_eq_of_lt hlt])⟩

/-- Settles O38: the bits of a sequence's value are the sequence. -/
theorem bitCodecReverseRoundTrip : Obligations.BitCodecReverseRoundTrip := by
  intro s t u b v hb ht hv hu
  cases (exec_valueOf_of_nonempty s hb).symm.trans ht
  cases hv
  cases (exec_bitsOf_of_pos _ _ (Int.natCast_pos.mpr (List.length_pos_iff.mpr hb))).symm.trans hu
  exact congrArg Result.bits (bitsOfNat_valueOfBits b)

end Sys2Proof.Machine

namespace Sys2Proof.Machine

/-! What an operation can do: it is made of a few elementary actions, or it raises. -/

/-- `t` is reached from `s` by the elementary actions every operation but `reset` is made of. -/
inductive State.Reaches (s : State) : State → Prop where
  | refl : s.Reaches s
  | drive {t : State} (m d : Bit) : s.Reaches t → s.Reaches (t.drive m d)
  | edge {t : State} : s.Reaches t → s.Reaches t.edge
  | setShiftReg {t : State} (i o : BitSeq) : s.Reaches t → s.Reaches (t.setShiftReg i o)
  | beginShift {t : State} (n : Nat) : s.Reaches t → s.Reaches (t.beginShift n)
  | returns {t : State} (r : Result) : s.Reaches t → s.Reaches (t.returns r)

namespace State.Reaches

variable {s t : State}

theorem driveEdges (es : List (Bit × Bit)) (h : s.Reaches t) : s.Reaches (t.driveEdges es) := by
  induction es generalizing t with
  | nil => exact h
  | cons e es ih => exact ih (h.drive e.1 e.2).edge

theorem heldEdges (n : Nat) (h : s.Reaches t) : s.Reaches (t.heldEdges n) := by
  induction n generalizing t with
  | zero => exact h
  | succ n ih => exact ih h.edge

theorem scanned (goto bits : BitSeq) (s : State) : s.Reaches (s.scanned goto bits) :=
  .driveEdges _ (.driveEdges _ (.beginShift _ (.driveEdges _ .refl)))

theorem shiftBody (bits : BitSeq) (s : State) : s.Reaches (s.shiftBody bits).1 := by
  rw [State.shiftBody_eq]
  exact .setShiftReg _ _ (.driveEdges _ (.beginShift _ .refl))

theorem sameRecord (h : s.Reaches t) : s.SameRecord t := by
  induction h with
  | refl => exact ⟨rfl, rfl, rfl⟩
  | drive _ _ _ ih | edge _ ih | setShiftReg _ _ _ ih | beginShift _ _ ih | returns _ _ ih =>
    exact ⟨ih.errors, ih.calls, ih.pc⟩

/-- The TAP state changes at edges only (R34). -/
theorem tap_edges (h : s.Reaches t) : t.tap = s.tap ∧ t.edges = s.edges ∨ s.edges < t.edges := by
  induction h with
  | refl => exact .inl ⟨rfl, rfl⟩
  | @edge t _ ih =>
    rw [State.edge_edges]
    omega
  | drive _ _ _ ih | setShiftReg _ _ _ ih | beginShift _ _ ih | returns _ _ ih => exact ih

/-- No edge makes an unknown TAP state known (R141). -/
theorem tap_unknown (h : s.Reaches t) (hs : s.tap = .unknown) : t.tap = .unknown := by
  induction h with
  | refl => exact hs
  | @edge t _ ih =>
    rw [State.edge_tap, ih]
    cases t.tms <;> rfl
  | drive _ _ _ ih | setShiftReg _ _ _ ih | beginShift _ _ ih | returns _ _ ih => exact ih

end State.Reaches

/-- An operation runs its actions or raises one error of the block's own. -/
def State.RunsOrRaises (s t : State) : Prop :=
  s.Reaches t ∨ ∃ kind info, kind.raisedByBlock = true ∧ t = s.raise kind info

namespace State.RunsOrRaises

variable {s : State}

theorem requireTap (legal : Tap → Bool) {body : State → State} (h : s.Reaches (body s)) :
    s.RunsOrRaises (s.requireTap legal body) := by
  rcases s.requireTap_cases legal body with ⟨-, heq⟩ | ⟨-, heq⟩ <;> rw [heq]
  · exact .inl h
  · exact .inr ⟨_, _, rfl, rfl⟩

theorem requireBits (bits : BitSeq) {body : State → State} (h : s.RunsOrRaises (body s)) :
    s.RunsOrRaises (s.requireBits bits body) := by
  rcases s.requireBits_cases bits body with ⟨-, heq⟩ | ⟨-, heq⟩ <;> rw [heq]
  · exact h
  · exact .inr ⟨_, _, rfl, rfl⟩

theorem writeInstruction (bits : BitSeq) (s : State) : s.RunsOrRaises (s.writeInstruction bits) := by
  rcases s.writeInstruction_cases bits with ⟨-, -, heq⟩ | ⟨kind, info, hkind, heq⟩ <;> rw [heq]
  · exact .inl (.returns _ (.setShiftReg _ _ (.scanned _ _ s)))
  · exact .inr ⟨kind, info, hkind, rfl⟩

theorem writeData (bits : BitSeq) (use : BitSeq → Result) (s : State) : s.RunsOrRaises (s.writeData bits use) := by
  rcases s.writeData_cases bits use with ⟨-, -, heq⟩ | ⟨kind, info, hkind, heq⟩ <;> rw [heq]
  · exact .inl (.returns _ (.setShiftReg _ _ (.scanned _ _ s)))
  · exact .inr ⟨kind, info, hkind, rfl⟩

end State.RunsOrRaises

theorem exec_reset (d : Bit) (s : State) : exec (.reset d) s = .next ((s.resetSequence d).returns .nothing) := rfl

/-- Every operation answers a next state. `reset` ends in Test-Logic-Reset; every other operation runs or raises. -/
theorem exec_cases (i : Instr) (s : State) :
    (∃ d, i = .reset d) ∨ ∃ t, exec i s = .next t ∧ s.RunsOrRaises t := by
  cases i with
  | reset d => exact .inl ⟨d, rfl⟩
  | gotoShiftIr d => exact .inr ⟨_, rfl, .requireTap _ (.returns _ (.driveEdges _ .refl))⟩
  | gotoShiftDr d => exact .inr ⟨_, rfl, .requireTap _ (.returns _ (.driveEdges _ .refl))⟩
  | returnToIdle d => exact .inr ⟨_, rfl, .requireTap _ (.returns _ (.driveEdges _ .refl))⟩
  | shift bits => exact .inr ⟨_, rfl, .requireBits bits (.requireTap _ (.returns _ (.shiftBody bits s)))⟩
  | wait n => exact .inr ⟨_, rfl, .requireTap _ (.returns _ (.heldEdges n .refl))⟩
  | writeInstruction bits => exact .inr ⟨_, rfl, .writeInstruction bits s⟩
  | writeData bits => exact .inr ⟨_, rfl, .writeData bits _ s⟩
  | bitsOf value width =>
    refine .inr ⟨_, rfl, ?_⟩
    split
    · exact .inr ⟨_, _, rfl, rfl⟩
    · exact .inl (.returns _ .refl)
  | valueOf bits => exact .inr ⟨_, rfl, .requireBits bits (.inl (.returns _ .refl))⟩
  | encode address data operation => exact .inr ⟨_, rfl, .inl (.returns _ .refl)⟩
  | decode raw => exact .inr ⟨_, rfl, .inl (.returns _ .refl)⟩
  | apbNone address data => exact .inr ⟨_, rfl, .writeData _ _ s⟩
  | apbRead address data => exact .inr ⟨_, rfl, .writeData _ _ s⟩
  | apbWrite address data => exact .inr ⟨_, rfl, .writeData _ _ s⟩
  | irIdcode => exact .inr ⟨_, rfl, .writeInstruction _ s⟩
  | irApbControl => exact .inr ⟨_, rfl, .writeInstruction _ s⟩
  | irApbAccess => exact .inr ⟨_, rfl, .writeInstruction _ s⟩

/-- The same for an operation that has answered. -/
theorem exec_next_cases {i : Instr} {s t : State} (h : exec i s = .next t) :
    (∃ d, i = .reset d ∧ t = (s.resetSequence d).returns .nothing) ∨ s.RunsOrRaises t := by
  rcases exec_cases i s with ⟨d, rfl⟩ | ⟨u, hu, hcases⟩
  · cases (exec_reset d s).symm.trans h
    exact .inl ⟨d, rfl, rfl⟩
  · cases hu.symm.trans h
    exact .inr hcases

theorem State.resetSequence_edges_eq (d : Bit) (s : State) : (s.resetSequence d).edges = s.edges + 5 := rfl

theorem State.resetSequence_sameRecord (d : Bit) (s : State) : s.SameRecord (s.resetSequence d) := ⟨rfl, rfl, rfl⟩

/-- Whatever an operation does, the TAP state and the edge count stay, or the edge count rises. -/
theorem exec_tap_edges {i : Instr} {s t : State} (h : exec i s = .next t) :
    t.tap = s.tap ∧ t.edges = s.edges ∨ s.edges < t.edges := by
  rcases exec_next_cases h with ⟨d, rfl, rfl⟩ | hrun | ⟨kind, info, -, rfl⟩
  · rw [State.returns_edges, State.resetSequence_edges_eq]
    omega
  · exact hrun.tap_edges
  · exact .inl ⟨rfl, rfl⟩

theorem State.raise_sameSignals (kind : ErrorKind) (info : ErrorInfo) (s : State) :
    s.SameSignals (s.raise kind info) := ⟨rfl, rfl, rfl, rfl, rfl⟩

theorem State.returns_sameSignals (r : Result) (s : State) : s.SameSignals (s.returns r) := ⟨rfl, rfl, rfl, rfl, rfl⟩

/-- The codec functions drive nothing (R120, R121, R200, R201). -/
theorem exec_function_sameSignals {i : Instr} {s t : State} (hi : i.format = .function) (h : exec i s = .next t) :
    s.SameSignals t := by
  cases i with
  | bitsOf value width =>
    rcases lt_or_ge 0 width with hw | hw
    · cases (exec_bitsOf_of_pos value s hw).symm.trans h
      exact s.returns_sameSignals _
    · cases (exec_bitsOf_of_nonpos value s hw).symm.trans h
      exact s.raise_sameSignals _ _
  | valueOf bits =>
    by_cases hb : bits = []
    · subst hb
      cases h
      exact s.raise_sameSignals _ _
    · cases (exec_valueOf_of_nonempty s hb).symm.trans h
      exact s.returns_sameSignals _
  | encode address data op => cases h; exact s.returns_sameSignals _
  | decode raw => cases h; exact s.returns_sameSignals _
  | _ => cases hi

/-- Settles O12: the actions of every operation but `reset` keep the TAP state unknown. -/
theorem onlyResetMakesTapKnown : Obligations.OnlyResetMakesTapKnown := by
  intro i s t hs h hi
  rcases exec_next_cases h with ⟨d, rfl, -⟩ | hrun | ⟨kind, info, -, rfl⟩
  · exact absurd rfl (hi d)
  · exact hrun.tap_unknown hs
  · exact hs

/-- Settles O24: an operation that runs leaves the record alone, and one that raises does nothing else. -/
theorem errorsArePrecise : Obligations.ErrorsArePrecise := by
  intro i s
  rcases exec_cases i s with ⟨d, rfl⟩ | ⟨t, ht, hrun | ⟨kind, info, -, rfl⟩⟩
  · exact ⟨_, exec_reset d s, rfl, rfl, .inl rfl⟩
  · exact ⟨t, ht, hrun.sameRecord.calls, hrun.sameRecord.pc, .inl hrun.sameRecord.errors⟩
  · exact ⟨_, ht, rfl, rfl, .inr ⟨kind, info, s.raise_sameSignals kind info, ⟨rfl, rfl⟩, rfl, rfl⟩⟩

/-- Settles O26: a step is idle or runs one operation. -/
theorem edgeCounterOnlyAdvances : Obligations.EdgeCounterOnlyAdvances := by
  intro s t h
  rcases step_next_cases h with ⟨-, rfl⟩ | ⟨c, rest, i, -, -, hexec⟩
  · exact ⟨le_rfl, fun hne => absurd rfl hne⟩
  · rcases exec_tap_edges hexec with ⟨htap, hedges⟩ | hlt
    · exact ⟨hedges.ge, fun hne => absurd htap hne⟩
    · exact ⟨hlt.le, fun _ => hlt⟩

/-- Settles O11: the edge's own equation, and what operations can do. -/
theorem tapChangesOnlyAtEdges : Obligations.TapChangesOnlyAtEdges := by
  refine ⟨fun s m hm => ?_, fun i s t h => exec_tap_edges h, fun i s t hi h => exec_function_sameSignals hi h⟩
  rw [State.edge_tap, hm]
  rfl

/-- Settles O2: the two branches of `step`. -/
theorem stepRunsDecodedCall : Obligations.StepRunsDecodedCall := by
  intro s c rest hc
  constructor
  · intro i hi
    simp [step, State.takeCall, hc, hi]
  · intro why hwhy
    simp [step, State.takeCall, hc, hwhy]

theorem step_of_no_calls {s : State} (h : s.calls = []) : step s = .next s := by
  simp [step, State.takeCall, h]

/-- Settles O1: the fields of `State.reset`, and the step without a call. -/
theorem powerUpStateAndIdleStep : Obligations.PowerUpStateAndIdleStep :=
  ⟨rfl, rfl, rfl, rfl, rfl, rfl, rfl, rfl, fun _ => step_of_no_calls⟩

/-! The TAP's table (R140). -/

/-- Settles O8: the table's entries, one by one. -/
theorem tapTransitionTable : Obligations.TapTransitionTable := rfl

theorem TapState.next_true_five (q : TapState) :
    ((((q.next true).next true).next true).next true).next true = .tlr := by
  cases q <;> rfl

/-- Settles O9: each of the sixteen states is five TMS-high edges or less from Test-Logic-Reset. -/
theorem fiveTmsHighEdgesReachTlr : Obligations.FiveTmsHighEdgesReachTlr :=
  ⟨TapState.next_true_five, fun q => by cases q <;> decide, by decide⟩

/-! Serial-out (R37, R142). -/

theorem Target.captureDr_tdo (t : Target) (e : Nat) : (t.captureDr e).tdo = Config.tdo t.history e := by
  unfold Target.captureDr
  dsimp only
  split <;> rfl

theorem Target.updateDr_tdo (t : Target) (e : Nat) : (t.updateDr e).tdo = t.tdo := by
  unfold Target.updateDr Target.updateControl Target.request
  dsimp only
  repeat' split
  all_goals rfl

theorem Target.enter_tdo (t : Target) (q : Tap) (e : Nat) : (t.enter q e).tdo = t.tdo := by
  unfold Target.enter
  split
  case h_3 => exact t.updateDr_tdo e
  all_goals rfl

/-- Every edge but those that leave Shift-DR gives serial-out a free value. -/
theorem Target.leave_tdo {q : Tap} (hq : q ≠ .known .shiftDR) (t : Target) (d : Line) (e : Nat) :
    (t.leave q d e).tdo = Config.tdo t.history e := by
  unfold Target.leave
  dsimp only
  split
  case h_3 => exact t.captureDr_tdo e
  case h_5 => exact absurd rfl hq
  all_goals rfl

theorem State.edgeStep_sample_free {s : State} (hs : s.tap ≠ .known .shiftDR) (m d : Bit) :
    (s.edgeStep m d).sample = Config.tdo (s.edgeStep m d).target.history (s.edges + 1) := by
  rw [State.sample, State.edgeStep_history, State.edgeStep_target, Target.edge, Target.enter_tdo,
    Target.leave_tdo hs]

/-- Settles O10: the fields of an edge step, and its sample. -/
theorem edgeStepDrivesAdvancesSamples : Obligations.EdgeStepDrivesAdvancesSamples := fun _ m d =>
  ⟨rfl, rfl, rfl, rfl, fun hs => State.edgeStep_sample_free hs m d⟩

end Sys2Proof.Machine

namespace Sys2Proof.Machine

/-! Family 60_exceptions: illegal states and empty sequences (R231, R232, R234). -/

theorem State.writeInstruction_of_illegal {s : State} {bits : BitSeq} (hb : bits ≠ [])
    (h : s.tap.resetOrIdle = false) :
    s.writeInstruction bits = s.raise .protocolStateError (.tap s.tap) := by
  rw [State.writeInstruction, State.requireBits_of_nonempty _ _ hb, State.requireTap_of_illegal _ h]

theorem State.writeData_of_illegal {s : State} {bits : BitSeq} (use : BitSeq → Result) (hb : bits ≠ [])
    (h : s.tap.resetOrIdle = false) :
    s.writeData bits use = s.raise .protocolStateError (.tap s.tap) := by
  rw [State.writeData, State.requireBits_of_nonempty _ _ hb, State.requireTap_of_illegal _ h]

theorem bitsOfNat_ne_nil (v : Nat) {w : Nat} (h : 0 < w) : bitsOfNat v w ≠ [] := by
  rw [← List.length_pos_iff, bitsOfNat_length]
  exact h

theorem frameBits_ne_nil (a d : Nat) (op : ApbOp) : frameBits a d op ≠ [] := bitsOfNat_ne_nil _ (by decide)

theorem exec_frame_of_illegal {i : Instr} {s : State} (hi : i.format = .apbFrame50) (h : s.tap.resetOrIdle = false) :
    exec i s = .next (s.raise .protocolStateError (.tap s.tap)) := by
  cases i with
  | apbNone a d => exact congrArg _ (State.writeData_of_illegal _ (frameBits_ne_nil a d .none) h)
  | apbRead a d => exact congrArg _ (State.writeData_of_illegal _ (frameBits_ne_nil a d .read) h)
  | apbWrite a d => exact congrArg _ (State.writeData_of_illegal _ (frameBits_ne_nil a d .write) h)
  | _ => cases hi

theorem exec_irOpcode_of_illegal {i : Instr} {s : State} (hi : i.format = .ir5) (h : s.tap.resetOrIdle = false) :
    exec i s = .next (s.raise .protocolStateError (.tap s.tap)) := by
  have hraise (opcode : BitVec 5) : s.writeOpcode opcode = s.raise .protocolStateError (.tap s.tap) :=
    State.writeInstruction_of_illegal (bitsOfNat_ne_nil _ (by decide)) h
  cases i with
  | irIdcode => exact congrArg _ (hraise _)
  | irApbControl => exact congrArg _ (hraise _)
  | irApbAccess => exact congrArg _ (hraise _)
  | _ => cases hi

theorem exec_shift_of_illegal {s : State} {bits : BitSeq} (hb : bits ≠ []) (h : s.tap.shifting = false) :
    exec (.shift bits) s = .next (s.raise .protocolStateError (.tap s.tap)) := by
  rw [exec, execShift, State.requireBits_of_nonempty _ _ hb, State.requireTap_of_illegal _ h]

/-- Settles O22: the check of each operation fails before its first edge. -/
theorem illegalStateRaises : Obligations.IllegalStateRaises := by
  refine fun s => ⟨fun h i hi => ?_, fun h d => ?_, fun h b hb => ?_, fun h n => ?_⟩
  · rcases hi with ⟨d, rfl | rfl⟩ | ⟨b, hb, rfl | rfl⟩ | hi | hi
    · exact congrArg _ (State.requireTap_of_illegal _ h)
    · exact congrArg _ (State.requireTap_of_illegal _ h)
    · exact congrArg _ (State.writeInstruction_of_illegal hb h)
    · exact congrArg _ (State.writeData_of_illegal _ hb h)
    · exact exec_frame_of_illegal hi h
    · exact exec_irOpcode_of_illegal hi h
  · exact congrArg _ (State.requireTap_of_illegal _ h)
  · exact exec_shift_of_illegal hb h
  · exact congrArg _ (State.requireTap_of_illegal _ h)

/-- Settles O23: the check of the sequence comes first. -/
theorem emptySequenceRaises : Obligations.EmptySequenceRaises := by
  intro s i hi
  simp only [List.mem_cons, List.not_mem_nil, or_false] at hi
  rcases hi with rfl | rfl | rfl | rfl <;> exact congrArg Host.Outcome.next (State.requireBits_nil s _)

end Sys2Proof.Machine

namespace Sys2Proof.Machine

/-! Family 41_tap_navigator: what each navigator operation ends in. -/

theorem State.driveEdges_sameRecord (es : List (Bit × Bit)) (s : State) : s.SameRecord (s.driveEdges es) :=
  (State.Reaches.driveEdges es .refl).sameRecord

theorem State.driveEdges_sameShiftReg (es : List (Bit × Bit)) (s : State) : s.SameShiftReg (s.driveEdges es) :=
  ⟨s.driveEdges_srIn es, s.driveEdges_srOut es⟩

theorem State.SameShiftReg.returns {s t : State} (h : s.SameShiftReg t) (r : Result) : s.SameShiftReg (t.returns r) :=
  ⟨h.srIn, h.srOut⟩

theorem State.driveEdges_gotoShiftIr_drove {s : State} (d : Bit) (h : s.tap.resetOrIdle = true) :
    s.Drove (s.driveEdges (heldAt tmsGotoShiftIr d)) .shiftIR false d 5 :=
  ⟨s.driveEdges_gotoShiftIr_tap d h, rfl, rfl, rfl, s.driveEdges_sameRecord _⟩

theorem State.driveEdges_gotoShiftDr_drove {s : State} (d : Bit) (h : s.tap.resetOrIdle = true) :
    s.Drove (s.driveEdges (heldAt tmsGotoShiftDr d)) .shiftDR false d 4 :=
  ⟨s.driveEdges_gotoShiftDr_tap d h, rfl, rfl, rfl, s.driveEdges_sameRecord _⟩

theorem State.driveEdges_returnToIdle_drove {s : State} (d : Bit) (h : s.tap.exit1 = true) :
    s.Drove (s.driveEdges (heldAt tmsReturnToIdle d)) .rti false d 2 :=
  ⟨s.driveEdges_returnToIdle_tap d h, rfl, rfl, rfl, s.driveEdges_sameRecord _⟩

theorem State.resetSequence_drove (d : Bit) (s : State) : s.Drove (s.resetSequence d) .tlr true d 5 :=
  ⟨rfl, rfl, rfl, rfl, s.resetSequence_sameRecord d⟩

theorem State.resetSequence_sameShiftReg (d : Bit) (s : State) : s.SameShiftReg (s.resetSequence d) := ⟨rfl, rfl⟩

theorem State.Drove.returns {s t : State} {q : TapState} {m d : Bit} {n : Nat} (h : s.Drove t q m d n) (r : Result) :
    s.Drove (t.returns r) q m d n :=
  ⟨h.tap, h.tms, h.tdi, h.edges, h.record.errors, h.record.calls, h.record.pc⟩

theorem State.Drove.setShiftReg {s t : State} {q : TapState} {m d : Bit} {n : Nat} (h : s.Drove t q m d n)
    (i o : BitSeq) : s.Drove (t.setShiftReg i o) q m d n :=
  ⟨h.tap, h.tms, h.tdi, h.edges, h.record.errors, h.record.calls, h.record.pc⟩

theorem State.Drove.beginShift {s t : State} {q : TapState} {m d : Bit} {n k : Nat}
    (h : (s.beginShift k).Drove t q m d n) : s.Drove t q m d n :=
  ⟨h.tap, h.tms, h.tdi, h.edges, h.record.errors, h.record.calls, h.record.pc⟩

/-- The edges of a shift end with mode-select high and the last bit. -/
theorem shiftEdges_concat (bits : BitSeq) (h : bits ≠ []) :
    ∃ es, shiftEdges bits = es ++ [(true, bits.getLast h)] := by
  induction bits with
  | nil => exact absurd rfl h
  | cons b bs ih =>
    rw [shiftEdges_cons]
    by_cases hbs : bs = []
    · subst hbs
      exact ⟨[], rfl⟩
    · obtain ⟨es, hes⟩ := ih hbs
      exact ⟨(bs.isEmpty, b) :: es, by rw [hes, List.getLast_cons hbs, List.cons_append]⟩

/-- The Exit1 state a complete shift leads to. -/
def TapState.shiftExit (q q' : TapState) : Prop :=
  q = .shiftIR ∧ q' = .exit1IR ∨ q = .shiftDR ∧ q' = .exit1DR

theorem State.driveEdges_shift_drove {s : State} {bits : BitSeq} {q q' : TapState} (hb : bits ≠ [])
    (hs : s.tap = .known q) (hq : q.shiftExit q') :
    s.Drove (s.driveEdges (shiftEdges bits)) q' true (bits.getLast hb) bits.length := by
  obtain ⟨es, hes⟩ := shiftEdges_concat bits hb
  refine ⟨?_, ?_, ?_, ?_, s.driveEdges_sameRecord _⟩
  · rcases hq with ⟨rfl, rfl⟩ | ⟨rfl, rfl⟩
    · exact State.driveEdges_shift_tap_shiftIR hb hs
    · exact State.driveEdges_shift_tap_shiftDR hb hs
  · rw [hes, State.driveEdges_concat_tms]
  · rw [hes, State.driveEdges_concat_tdi]
  · rw [State.driveEdges_edges, shiftEdges_length]

/-- Settles O16: five edges that touch none of the target's registers. -/
theorem gotoShiftIrCompletes : Obligations.GotoShiftIrCompletes := fun s d h =>
  ⟨_, exec_gotoShiftIr_of_legal d h, (s.driveEdges_gotoShiftIr_drove d h).returns _,
    (s.driveEdges_sameShiftReg _).returns _, rfl, (s.driveEdges_gotoShiftIr_target d h).1⟩

/-- What the capture at the fourth edge of `goto_shift_dr` leaves of the target. -/
theorem Target.captureDr_requests_of_same {t u : Target} (h : t.SameRegisters u) (e : Nat) :
    SameRequests (t.awaitedRead e) t.txns (u.captureDr e).txns := by
  rw [← h.awaitedRead, ← h.txns]
  exact u.captureDr_requests e

/-- Settles O17: three edges without effect, then the capture. -/
theorem gotoShiftDrCompletes : Obligations.GotoShiftDrCompletes := by
  intro s d h
  obtain ⟨t, hst, ht⟩ := s.driveEdges_gotoShiftDr_target d h
  obtain ⟨hir, hcontrol, hscans, hboot, -, -, -, -, -, hfromTlr⟩ := t.captureDr_frame (s.edges + 4)
  refine ⟨_, exec_gotoShiftDr_of_legal d h, (s.driveEdges_gotoShiftDr_drove d h).returns _,
    (s.driveEdges_sameShiftReg _).returns _, rfl, ?_⟩
  rw [State.returns_target, ht]
  exact ⟨hir.trans hst.ir, hcontrol.trans hst.control, hscans.trans hst.scans, hboot.trans hst.boot,
    hfromTlr.trans hst.fromTlr, Target.captureDr_requests_of_same hst _⟩

/-- Settles O19: the drive of a complete shift, between two states with the same registers. -/
theorem shiftCompletes : Obligations.ShiftCompletes := by
  intro s bits hb q' hq
  obtain ⟨q, hs, hqq'⟩ : ∃ q, s.tap = .known q ∧ q.shiftExit q' := by
    rcases hq with ⟨hs, hq⟩ | ⟨hs, hq⟩
    · exact ⟨_, hs, .inl ⟨rfl, hq⟩⟩
    · exact ⟨_, hs, .inr ⟨rfl, hq⟩⟩
  have hshift : q = .shiftIR ∨ q = .shiftDR := hqq'.imp And.left And.left
  have hlegal : s.tap.shifting = true := by
    rw [Tap.shifting_iff, hs]
    exact hshift.imp (congrArg Tap.known) (congrArg Tap.known)
  refine ⟨_, exec_shift_of_legal hb hlegal, ?_, ⟨rfl, rfl⟩, rfl, ?_, ?_⟩
  · exact ((State.driveEdges_shift_drove (s := s.beginShift _) hb hs hqq').setShiftReg [] []).beginShift.returns _
  · rw [State.samples_length, shiftEdges_length]
  · exact (s.target.beginShift_same _).trans
      (State.driveEdges_shift_target (s := s.beginShift bits.length) bits hshift hs).1

/-- Settles O13: `reset` assigns what its edges from an unknown state would leave open. -/
theorem resetCompletes : Obligations.ResetCompletes := fun s d =>
  ⟨_, exec_reset d s, (s.resetSequence_drove d).returns _, (s.resetSequence_sameShiftReg d).returns _, rfl, rfl, rfl⟩

/-- Settles O15: the second reset ends where every reset ends. -/
theorem resetIsIdempotent : Obligations.ResetIsIdempotent := by
  intro s t u a b ht hu
  cases ht
  cases hu
  exact ⟨rfl, rfl, rfl⟩

/-! The path of a reset to Test-Logic-Reset (R261, R266). -/

/-- What the APB side is, as a `reset` can leave it. -/
structure Target.SameApb (t u : Target) : Prop where
  control : u.control = t.control
  scans : u.scans = t.scans
  txns : u.txns = t.txns
  stray : u.stray = t.stray
  unknownAt : u.unknownAt = t.unknownAt

theorem Target.SameApb.refl (t : Target) : t.SameApb t := ⟨rfl, rfl, rfl, rfl, rfl⟩

theorem Target.SameApb.trans {t u v : Target} (h : t.SameApb u) (g : u.SameApb v) : t.SameApb v :=
  ⟨g.control.trans h.control, g.scans.trans h.scans, g.txns.trans h.txns, g.stray.trans h.stray,
    g.unknownAt.trans h.unknownAt⟩

/-- These TMS values lead from a known TAP state along edges that leave no Capture-DR and enter no Update-DR. -/
def TapState.sparesApb : TapState → BitSeq → Bool
  | _, [] => true
  | q, m :: ms => decide (q ≠ .capDR) && decide (q.next m ≠ .updateDR) && (q.next m).sparesApb ms

theorem Target.record_sameApb (t : Target) (m d : Line) : t.SameApb (t.record m d) := ⟨rfl, rfl, rfl, rfl, rfl⟩

theorem Target.leave_sameApb {q : TapState} (h : q ≠ .capDR) (t : Target) (d : Line) (e : Nat) :
    t.SameApb (t.leave (.known q) d e) := by
  cases q with
  | capDR => exact absurd rfl h
  | _ => exact ⟨rfl, rfl, rfl, rfl, rfl⟩

theorem Target.enter_sameApb {q : TapState} (h : q ≠ .updateDR) (t : Target) (e : Nat) :
    t.SameApb (t.enter (.known q) e) := by
  cases q with
  | updateDR => exact absurd rfl h
  | _ => exact ⟨rfl, rfl, rfl, rfl, rfl⟩

theorem State.driveEdges_sameApb {s : State} {q : TapState} {tms : BitSeq} (d : Bit) (hs : s.tap = .known q)
    (h : q.sparesApb tms = true) : s.target.SameApb (s.driveEdges (heldAt tms d)).target := by
  induction tms generalizing s q with
  | nil => exact .refl _
  | cons m ms ih =>
    simp only [TapState.sparesApb, Bool.and_eq_true, decide_eq_true_eq] at h
    obtain ⟨⟨hleave, henter⟩, hrest⟩ := h
    have hnext : (s.edgeStep m d).tap = .known (q.next m) := by rw [State.edgeStep_tap, hs]; rfl
    have hedge : s.target.SameApb (s.edgeStep m d).target := by
      rw [State.edgeStep_target, hs]
      exact ((Target.record_sameApb _ _ _).trans (Target.leave_sameApb hleave _ _ _)).trans
        (Target.enter_sameApb henter _ _)
    exact hedge.trans (ih hnext hrest)

theorem Target.enterTlr_sameApb (t : Target) : t.SameApb t.enterTlr := ⟨rfl, rfl, rfl, rfl, rfl⟩

/-- Settles O14: from the four known states the path passes neither Capture-DR nor Update-DR, and an edge in an unknown
state keeps the requests. -/
theorem resetLeavesApbState : Obligations.ResetLeavesApbState := by
  intro s t d hs ht
  cases ht
  by_cases hu : s.tap = .unknown
  · have hfields : (s.resetSequence d).target.txns = s.target.txns ∧ (s.resetSequence d).target.scans = s.target.scans ∧
        (s.resetSequence d).target.stray = s.target.stray ∧ (s.resetSequence d).target.unknownAt = s.edges + 5 := by
      simp [heldAt, tmsReset, State.driveEdges_cons, hu, Tap.next, Target.edge]
    obtain ⟨htxns, hscans, hstray, hat⟩ := hfields
    exact ⟨htxns, hscans, hstray, rfl, rfl, fun hne => absurd hu hne, fun _ => hat⟩
  · obtain ⟨q, hq, hpath⟩ : ∃ q, s.tap = .known q ∧ q.sparesApb tmsReset = true := by
      simp only [List.mem_cons, List.not_mem_nil, or_false, hu, false_or] at hs
      rcases hs with h | h | h | h <;> exact ⟨_, h, by decide⟩
    have h := (State.driveEdges_sameApb d hq hpath).trans (Target.enterTlr_sameApb _)
    exact ⟨h.txns, h.scans, h.stray, rfl, rfl, fun _ => ⟨h.control, h.unknownAt⟩, fun hk => absurd hk hu⟩

/-! Held edges (R151). -/

theorem State.heldEdges_succ' (n : Nat) (s : State) : s.heldEdges (n + 1) = (s.heldEdges n).edge := by
  induction n generalizing s with
  | zero => rfl
  | succ n ih => exact ih s.edge

theorem State.heldEdges_tap {s : State} (h : s.tap.afterEdge s.tms = s.tap) (n : Nat) :
    (s.heldEdges n).tap = s.tap := by
  induction n with
  | zero => rfl
  | succ n ih => rw [State.heldEdges_succ', State.edge_tap, ih, (s.heldEdges_frame n).2.2.1, h]

/-- The last of `n + 1` edges that keep the TAP state. -/
theorem State.heldEdges_succ_target {s : State} (h : s.tap.afterEdge s.tms = s.tap) (n : Nat) :
    (s.heldEdges (n + 1)).target = (s.heldEdges n).target.edge s.tap s.tap s.tms s.tdi (s.edges + n + 1) := by
  obtain ⟨-, -, htms, htdi, -⟩ := s.heldEdges_frame n
  rw [State.heldEdges_succ', State.edge_target, State.heldEdges_tap h, State.heldEdges_edges, htms, htdi, h]

/-- What an edge that keeps the TAP state preserves, held edges preserve. -/
theorem State.heldEdges_target_preserves {s : State} (h : s.tap.afterEdge s.tms = s.tap) {P : Target → Prop}
    (hstep : ∀ t e, P t → P (t.edge s.tap s.tap s.tms s.tdi e)) (hs : P s.target) (n : Nat) :
    P (s.heldEdges n).target := by
  induction n with
  | zero => exact hs
  | succ n ih => rw [State.heldEdges_succ_target h]; exact hstep _ _ ih

/-- In Run-Test/Idle held edges leave the registers alone. -/
theorem State.heldEdges_rti_target {s : State} (h : s.tap = .known .rti) (hm : s.tms = .driven false) (n : Nat) :
    s.target.SameRegisters (s.heldEdges n).target := by
  refine State.heldEdges_target_preserves (by rw [h, hm]; rfl) (fun t e ht => ht.trans ?_) (.refl _) n
  rw [h]
  exact ⟨rfl, rfl, rfl, rfl, rfl, rfl, rfl, rfl, rfl, rfl⟩

/-- In Test-Logic-Reset they leave the APB side alone (R261), and the first of them sets the IR (R45). -/
theorem State.heldEdges_tlr_target {s : State} (h : s.tap = .known .tlr) (hm : s.tms = .driven true) (n : Nat) :
    s.target.SameApb (s.heldEdges n).target ∧ (s.heldEdges n).target.reports = s.target.reports ∧
      (0 < n → (s.heldEdges n).target.ir = Config.opcIdcode ∧ (s.heldEdges n).target.boot = .needControl ∧
        (s.heldEdges n).target.awaited = false ∧ (s.heldEdges n).target.fromTlr = true) := by
  have hkeep : s.tap.afterEdge s.tms = s.tap := by rw [h, hm]; rfl
  refine ⟨State.heldEdges_target_preserves hkeep (P := s.target.SameApb) (fun t e ht => ht.trans ?_) (.refl _) n,
    State.heldEdges_target_preserves hkeep (P := (·.reports = s.target.reports)) (fun t e ht => ?_) rfl n, fun hn => ?_⟩
  · rw [h]
    exact ⟨rfl, rfl, rfl, rfl, rfl⟩
  · rw [h]
    exact ht
  · obtain ⟨k, rfl⟩ := Nat.exists_eq_succ_of_ne_zero hn.ne'
    rw [State.heldEdges_succ_target hkeep, h]
    exact ⟨rfl, rfl, rfl, rfl⟩

/-- In an unknown TAP state they leave the requests alone (log entry 15), and the last of them is recorded. -/
theorem State.heldEdges_unknown_target {s : State} (h : s.tap = .unknown) (n : Nat) :
    ((s.heldEdges n).target.txns = s.target.txns ∧ (s.heldEdges n).target.scans = s.target.scans ∧
        (s.heldEdges n).target.stray = s.target.stray) ∧
      (0 < n → (s.heldEdges n).target.unknownAt = s.edges + n ∧ (s.heldEdges n).target.boot = .needReset ∧
        (s.heldEdges n).target.awaited = false ∧ (s.heldEdges n).target.fromTlr = false) := by
  have hkeep : s.tap.afterEdge s.tms = s.tap := by rw [h]; cases s.tms <;> rfl
  refine ⟨State.heldEdges_target_preserves hkeep
    (P := fun t => t.txns = s.target.txns ∧ t.scans = s.target.scans ∧ t.stray = s.target.stray)
    (fun t e ht => ?_) ⟨rfl, rfl, rfl⟩ n, fun hn => ?_⟩
  · rw [h]
    exact ht
  · obtain ⟨k, rfl⟩ := Nat.exists_eq_succ_of_ne_zero hn.ne'
    rw [State.heldEdges_succ_target hkeep, h]
    exact ⟨rfl, rfl, rfl, rfl⟩

/-- Held edges keep the TAP state wherever `wait` is legal and the lines are as between operations (R154). -/
theorem Tap.afterEdge_of_wait {q : Tap} {m : Line}
    (h : q = .unknown ∨ q = .known .tlr ∧ m = .driven true ∨ q = .known .rti ∧ m = .driven false) :
    q.afterEdge m = q := by
  rcases h with rfl | ⟨rfl, rfl⟩ | ⟨rfl, rfl⟩
  · cases m <;> rfl
  · rfl
  · rfl

theorem State.heldEdges_returns_frame (n : Nat) (r : Result) (s : State) :
    s.SameRecord ((s.heldEdges n).returns r) ∧ s.SameShiftReg ((s.heldEdges n).returns r) ∧
      ((s.heldEdges n).returns r).tms = s.tms ∧ ((s.heldEdges n).returns r).tdi = s.tdi := by
  obtain ⟨hrecord, hshift, htms, htdi, -⟩ := s.heldEdges_frame n
  exact ⟨⟨hrecord.errors, hrecord.calls, hrecord.pc⟩, hshift.returns r, htms, htdi⟩

/-- Settles O21: what held edges do to the target in each of the three TAP states. -/
theorem waitCompletes : Obligations.WaitCompletes := by
  intro s n hs
  have hlegal : s.tap.mayWait = true := (Tap.mayWait_iff _).mpr (hs.imp_right (Or.imp And.left And.left))
  obtain ⟨hrecord, hshift, htms, htdi⟩ := s.heldEdges_returns_frame n .nothing
  refine ⟨_, exec_wait_of_legal n hlegal, State.heldEdges_tap (Tap.afterEdge_of_wait hs) n, htms, htdi,
    s.heldEdges_edges n, hrecord, hshift, rfl, ?_⟩
  rcases hs with h | ⟨h, hm⟩ | ⟨h, hm⟩ <;> simp only [h, State.returns_target, reduceCtorEq, or_false, or_true,
    Tap.known.injEq, false_implies, true_implies, true_and, and_true]
  · obtain ⟨⟨htxns, hscans, hstray⟩, hlast⟩ := State.heldEdges_unknown_target h n
    exact ⟨htxns, hscans, hstray, fun hn => by subst hn; exact .refl _, hlast⟩
  · obtain ⟨hsame, hreports, hlast⟩ := State.heldEdges_tlr_target h hm n
    exact ⟨hsame.txns, hsame.scans, hsame.stray, fun hn => by subst hn; exact .refl _, hsame.control, hreports,
      hsame.unknownAt, hlast⟩
  · have hsame := State.heldEdges_rti_target h hm n
    exact ⟨hsame.txns, hsame.scans, hsame.stray, hsame⟩

/-! Encodings are what is driven. -/

/-- From a known TAP state the five edges of a reset end in Test-Logic-Reset themselves, so `reset` adds nothing to them. -/
theorem State.driveEdges_reset_sameSignals {s : State} (d : Bit) (h : s.tap ≠ .unknown) :
    (s.driveEdges (heldAt tmsReset d)).SameSignals (s.resetSequence d) := by
  obtain ⟨q, hq⟩ : ∃ q, s.tap = .known q := by
    cases hs : s.tap with
    | unknown => exact absurd hs h
    | known q => exact ⟨q, rfl⟩
  have htap : (s.driveEdges (heldAt tmsReset d)).tap = .known .tlr := by
    rw [State.driveEdges_tap, heldAt_tms, hq, ← TapState.next_true_five q]
    rfl
  have hlast : (s.driveEdges (heldAt tmsReset d)) =
      (s.driveEdges (heldAt [true, true, true, true] d)).edgeStep true d := rfl
  refine ⟨htap.symm, rfl, rfl, rfl, ?_⟩
  rw [State.resetSequence_target, hlast, State.edgeStep_target, ← State.edgeStep_tap _ true d, ← hlast, htap]
  rfl

/-- Appending an error changes the record. -/
theorem State.raise_errors_ne (kind : ErrorKind) (info : ErrorInfo) (s : State) :
    (s.raise kind info).errors ≠ s.errors := by
  simp

theorem State.requireTap_of_errors {legal : Tap → Bool} {body : State → State} {s : State}
    (h : (s.requireTap legal body).errors = s.errors) : s.requireTap legal body = body s := by
  rcases s.requireTap_cases legal body with ⟨-, heq⟩ | ⟨-, heq⟩
  · exact heq
  · exact absurd (heq ▸ h) (s.raise_errors_ne _ _)

theorem State.SameSignals.returns {s t : State} (h : s.SameSignals t) (r : Result) : s.SameSignals (t.returns r) :=
  ⟨h.tap, h.tms, h.tdi, h.edges, h.target⟩

theorem State.SameSignals.setShiftReg {s t : State} (h : s.SameSignals t) (i o : BitSeq) :
    s.SameSignals (t.setShiftReg i o) :=
  ⟨h.tap, h.tms, h.tdi, h.edges, h.target⟩

theorem State.SameSignals.refl (s : State) : s.SameSignals s := ⟨rfl, rfl, rfl, rfl, rfl⟩

theorem State.requireTap_driveEdges_sameSignals {legal : Tap → Bool} {es : List (Bit × Bit)} {r : Result} {s : State}
    (h : (s.requireTap legal fun s => (s.driveEdges es).returns r).errors = s.errors) :
    (s.driveEdges es).SameSignals (s.requireTap legal fun s => (s.driveEdges es).returns r) := by
  rw [State.requireTap_of_errors h]
  exact (State.SameSignals.refl _).returns r

/-- A `shift` that raises no error drives its edges (R150). -/
theorem exec_shift_sameSignals {bits : BitSeq} {s t : State} (h : exec (.shift bits) s = .next t)
    (herr : t.errors = s.errors) : ((s.beginShift bits.length).driveEdges (shiftEdges bits)).SameSignals t := by
  by_cases hb : bits = []
  · subst hb
    cases h
    exact absurd herr (s.raise_errors_ne _ _)
  · cases ht : s.tap.shifting with
    | true =>
      cases (exec_shift_of_legal hb ht).symm.trans h
      exact ((State.SameSignals.refl _).setShiftReg _ _).returns _
    | false =>
      cases (exec_shift_of_illegal hb ht).symm.trans h
      exact absurd herr (s.raise_errors_ne _ _)

/-- Settles O27: of the rows of TMS format only `reset` does more than drive its edges, and from a known state that adds
nothing. -/
theorem operationDrivesItsEncoding : Obligations.OperationDrivesItsEncoding := by
  intro i es s t hes hs h herr
  cases i with
  | reset d =>
    cases hes
    cases h
    exact ⟨fun _ => (State.driveEdges_reset_sameSignals d hs).returns _, nofun⟩
  | gotoShiftIr d =>
    cases hes
    cases h
    exact ⟨fun _ => State.requireTap_driveEdges_sameSignals herr, nofun⟩
  | gotoShiftDr d =>
    cases hes
    cases h
    exact ⟨fun _ => State.requireTap_driveEdges_sameSignals herr, nofun⟩
  | returnToIdle d =>
    cases hes
    cases h
    exact ⟨fun _ => State.requireTap_driveEdges_sameSignals herr, nofun⟩
  | shift bits =>
    cases hes
    refine ⟨fun hne => absurd rfl (hne bits), fun bits' hb => ?_⟩
    cases hb
    exact exec_shift_sameSignals h herr
  | _ => cases hes

end Sys2Proof.Machine

namespace Sys2Proof.Machine

/-! The invariant, first part: the numbering of the target's transactions (R49, R70 to R73). -/

namespace Target.WellNumbered

variable {t u : Target} {e : Nat}

/-- An update that leaves the scans and the transactions alone and records nothing new but earlier edges and scans. -/
theorem of_sameTxns (h : t.WellNumbered e) (hscans : u.scans = t.scans) (htxns : u.txns = t.txns)
    (hreports : ∀ j, u.reports = some j → j ≤ t.scans) (hawaited : u.awaited = true → t.awaited = true)
    (hstray : ∀ i, u.stray = some i → i ≤ e) (hunknownAt : u.unknownAt ≤ e) : u.WellNumbered e where
  scan := by rw [hscans, htxns]; exact h.scan
  issued := by rw [htxns]; exact h.issued
  latency := by rw [htxns]; exact h.latency
  distinct := by rw [htxns]; exact h.distinct
  reports := by rw [hscans]; exact hreports
  awaited ha := by rw [hscans, htxns]; exact h.awaited (hawaited ha)
  stray := hstray
  unknownAt := hunknownAt

theorem succ (h : t.WellNumbered e) : t.WellNumbered (e + 1) where
  scan := h.scan
  issued x hx := (h.issued x hx).trans (Nat.le_succ e)
  latency := h.latency
  distinct := h.distinct
  reports := h.reports
  awaited := h.awaited
  stray i hi := (h.stray i hi).trans (Nat.le_succ e)
  unknownAt := h.unknownAt.trans (Nat.le_succ e)

theorem record (h : t.WellNumbered e) (m d : Line) : (t.record m d).WellNumbered e :=
  h.of_sameTxns rfl rfl h.reports id h.stray h.unknownAt

theorem beginShift (h : t.WellNumbered e) (n : Nat) : (t.beginShift n).WellNumbered e := by
  refine h.of_sameTxns (t.beginShift_scans n) (t.beginShift_txns n) ?_ ?_ ?_ ?_
  · rw [Target.beginShift_reports]; exact h.reports
  · rw [Target.beginShift_awaited]; exact id
  · rw [Target.beginShift_stray]; exact h.stray
  · rw [Target.beginShift_unknownAt]; exact h.unknownAt

theorem forget (h : t.WellNumbered e) : (t.forget e).WellNumbered e :=
  h.of_sameTxns rfl rfl nofun nofun h.stray le_rfl

theorem enterTlr (h : t.WellNumbered e) : t.enterTlr.WellNumbered e :=
  h.of_sameTxns rfl rfl h.reports nofun h.stray h.unknownAt

theorem updateIr (h : t.WellNumbered e) : t.updateIr.WellNumbered e :=
  h.of_sameTxns rfl rfl h.reports nofun h.stray h.unknownAt

theorem afterUpdate (h : t.WellNumbered e) : t.afterUpdate.WellNumbered e :=
  h.of_sameTxns rfl rfl h.reports id h.stray h.unknownAt

theorem loseApb (h : t.WellNumbered e) : (t.loseApb e).WellNumbered e :=
  h.of_sameTxns rfl rfl nofun nofun (fun _ hi => by cases hi; exact le_rfl) h.unknownAt

theorem loseState (h : t.WellNumbered e) : (t.loseState e).WellNumbered e :=
  h.loseApb.of_sameTxns rfl rfl h.loseApb.reports id h.loseApb.stray h.unknownAt

theorem updateControl (h : t.WellNumbered e) : (t.updateControl e).WellNumbered e := by
  unfold Target.updateControl
  dsimp only
  split
  · split
    · split <;> exact h.of_sameTxns rfl rfl h.reports nofun h.stray h.unknownAt
    · exact loseApb (h.of_sameTxns rfl rfl h.reports nofun h.stray h.unknownAt)
  · exact h.loseApb.of_sameTxns rfl rfl h.loseApb.reports id h.loseApb.stray h.unknownAt

/-- A new scan is numbered above every transaction requested before. -/
theorem nextScan (h : t.WellNumbered e) : { t with scans := t.scans + 1, awaited := false }.WellNumbered e where
  scan x hx := (h.scan x hx).trans (Nat.le_succ _)
  issued := h.issued
  latency := h.latency
  distinct := h.distinct
  reports j hj := (h.reports j hj).trans (Nat.le_succ _)
  awaited := nofun
  stray := h.stray
  unknownAt := h.unknownAt

/-- A transaction of the present scan, above all others, may follow them. -/
theorem append {x : Txn} {b : Bool} (h : t.WellNumbered e) (hlt : ∀ y ∈ t.txns, y.scan < t.scans)
    (hscan : x.scan = t.scans) (hissued : x.issuedAt ≤ e) (hlatency : x.latency ≤ Config.apbLatency)
    (hb : b = true → x.access = .read) : { t with txns := t.txns ++ [x], awaited := b }.WellNumbered e where
  scan y hy := by
    rcases List.mem_append.mp hy with hy | hy
    · exact h.scan y hy
    · rw [List.mem_singleton.mp hy]; exact hscan.le
  issued y hy := by
    rcases List.mem_append.mp hy with hy | hy
    · exact h.issued y hy
    · rw [List.mem_singleton.mp hy]; exact hissued
  latency y hy := by
    rcases List.mem_append.mp hy with hy | hy
    · exact h.latency y hy
    · rw [List.mem_singleton.mp hy]; exact hlatency
  distinct := by
    refine List.pairwise_append.mpr ⟨h.distinct, List.pairwise_singleton _ _, fun y hy z hz => ?_⟩
    rw [List.mem_singleton.mp hz, hscan]
    exact hlt y hy
  reports := h.reports
  awaited ha := ⟨x, List.getLast?_concat, hb ha, hscan⟩
  stray := h.stray
  unknownAt := h.unknownAt

theorem request (h : t.WellNumbered e) (frame : Nat) : (t.request frame e).WellNumbered e := by
  have hnext := h.nextScan
  have hlt : ∀ y ∈ t.txns, y.scan < t.scans + 1 := fun y hy => Nat.lt_succ_of_le (h.scan y hy)
  unfold Target.request
  dsimp only
  split
  · exact hnext
  · exact hnext.append hlt rfl le_rfl (Nat.min_le_right _ _) fun _ => rfl
  · exact hnext.append hlt rfl le_rfl (Nat.min_le_right _ _) nofun
  · exact hnext.loseState

theorem updateDr (h : t.WellNumbered e) : (t.updateDr e).WellNumbered e := by
  unfold Target.updateDr
  split
  · exact h.of_sameTxns rfl rfl h.reports nofun h.stray h.unknownAt
  · exact h.updateControl
  · split
    · exact h.request _
    · exact h.loseState
  · exact h.loseState

end Target.WellNumbered

/-- `settle` marks the last transaction or changes nothing. -/
theorem Target.settle_cases (e : Nat) (t : Target) :
    t.settle e = t.txns ∨ ∃ ys x, t.txns = ys ++ [x] ∧ t.settle e = ys ++ [{ x with performed := true }] := by
  unfold Target.settle
  split
  · split
    next x hx =>
      obtain ⟨ys, hys⟩ := List.getLast?_eq_some_iff.mp (Target.awaitedRead_eq_some hx).2.1
      exact .inr ⟨ys, x, hys, by rw [hys, List.dropLast_concat]⟩
    next => exact .inl rfl
  · exact .inl rfl

/-- A reply reports a scan already made. -/
theorem Target.WellNumbered.pairing_scan_le {t : Target} {e f : Nat} {x : Txn} (h : t.WellNumbered f)
    (hx : t.pairing e = some x) : x.scan ≤ t.scans := by
  obtain ⟨-, ⟨y, hy, rfl⟩ | ⟨-, hmem, -⟩⟩ := Target.pairing_eq_some hx
  · exact h.scan y (List.mem_of_getLast? (Target.awaitedRead_eq_some hy).2.1)
  · exact h.scan x hmem

/-- Marking the last transaction as performed changes nothing that is numbered. -/
theorem Target.WellNumbered.settle {t : Target} {e : Nat} (h : t.WellNumbered e) (f : Nat) :
    { t with txns := t.settle f }.WellNumbered e := by
  rcases t.settle_cases f with heq | ⟨ys, x, hold, hnew⟩
  · rw [heq]
    exact h
  · obtain ⟨hscan, hissued, hlatency, hdistinct, hreports, hawaited, hstray, hunknownAt⟩ := h
    rw [hnew]
    rw [hold] at hscan hissued hlatency hdistinct hawaited
    simp only [List.forall_mem_append, List.forall_mem_singleton, List.pairwise_append, List.pairwise_singleton,
      List.getLast?_concat, Option.some.injEq, exists_eq_left'] at hscan hissued hlatency hdistinct hawaited
    refine ⟨?_, ?_, ?_, ?_, hreports, ?_, hstray, hunknownAt⟩ <;>
      simpa only [List.forall_mem_append, List.forall_mem_singleton, List.pairwise_append, List.pairwise_singleton,
        List.getLast?_concat, Option.some.injEq, exists_eq_left']

namespace Target.WellNumbered

variable {t : Target} {e : Nat}

theorem captureDr (h : t.WellNumbered e) : (t.captureDr e).WellNumbered e := by
  unfold Target.captureDr
  dsimp only
  split
  case h_3 =>
    refine (h.settle e).of_sameTxns rfl rfl (fun j hj => ?_) id h.stray h.unknownAt
    obtain ⟨x, hx, rfl⟩ := Option.map_eq_some_iff.mp hj
    exact h.pairing_scan_le hx
  all_goals exact h.of_sameTxns rfl rfl h.reports id h.stray h.unknownAt

theorem leave (h : t.WellNumbered e) (q : Tap) (d : Line) : (t.leave q d e).WellNumbered e := by
  unfold Target.leave
  dsimp only
  split
  case h_1 => exact h.forget
  case h_3 => exact h.captureDr
  all_goals exact h.of_sameTxns rfl rfl h.reports id h.stray h.unknownAt

theorem enter (h : t.WellNumbered e) (q : Tap) : (t.enter q e).WellNumbered e := by
  unfold Target.enter
  split
  · exact h.enterTlr
  · exact h.updateIr.afterUpdate
  · exact h.updateDr.afterUpdate
  · exact h
  · exact h

/-- Every clock edge keeps the numbering. -/
theorem edge (h : t.WellNumbered e) (old new : Tap) (m d : Line) : (t.edge old new m d (e + 1)).WellNumbered (e + 1) :=
  ((h.succ.record m d).leave old d).enter new

end Target.WellNumbered

theorem State.Reaches.wellNumbered {s t : State} (h : s.Reaches t) (hs : s.target.WellNumbered s.edges) :
    t.target.WellNumbered t.edges := by
  induction h with
  | refl => exact hs
  | edge _ ih => exact ih.edge _ _ _ _
  | beginShift n _ ih => exact ih.beginShift n
  | drive _ _ _ ih | setShiftReg _ _ _ ih | returns _ _ ih => exact ih

theorem exec_wellNumbered {i : Instr} {s t : State} (hs : s.target.WellNumbered s.edges) (h : exec i s = .next t) :
    t.target.WellNumbered t.edges := by
  rcases exec_next_cases h with ⟨d, rfl, rfl⟩ | hrun | ⟨kind, info, -, rfl⟩
  · exact ((State.Reaches.driveEdges (heldAt tmsReset d) .refl).wellNumbered hs).enterTlr
  · exact hrun.wellNumbered hs
  · exact hs

/-! The invariant, second part: the navigator's record between operations (R154). -/

/-- A whole scan ends in Run-Test/Idle (R180, R181). -/
theorem State.scanned_ir_drove {s : State} {bits : BitSeq} (hb : bits ≠ []) (h : s.tap.resetOrIdle = true) :
    s.Drove (s.scanned tmsGotoShiftIr bits) .rti false false (bits.length + 7) where
  tap := State.driveEdges_returnToIdle_tap false <| (Tap.exit1_iff _).mpr <| .inl <|
    State.driveEdges_shift_tap_shiftIR (s := s.scanShift tmsGotoShiftIr bits.length) hb
      (State.driveEdges_gotoShiftIr_tap false h)
  tms := rfl
  tdi := rfl
  edges := by rw [State.scanned_edges, show tmsGotoShiftIr.length = 5 from rfl]; omega
  record := ⟨s.scanned_errors _ _, s.scanned_calls _ _, s.scanned_pc _ _⟩

theorem State.scanned_dr_drove {s : State} {bits : BitSeq} (hb : bits ≠ []) (h : s.tap.resetOrIdle = true) :
    s.Drove (s.scanned tmsGotoShiftDr bits) .rti false false (bits.length + 6) where
  tap := State.driveEdges_returnToIdle_tap false <| (Tap.exit1_iff _).mpr <| .inr <|
    State.driveEdges_shift_tap_shiftDR (s := s.scanShift tmsGotoShiftDr bits.length) hb
      (State.driveEdges_gotoShiftDr_tap false h)
  tms := rfl
  tdi := rfl
  edges := by rw [State.scanned_edges, show tmsGotoShiftDr.length = 4 from rfl]; omega
  record := ⟨s.scanned_errors _ _, s.scanned_calls _ _, s.scanned_pc _ _⟩

namespace State.AtBoundary

variable {s t : State}

/-- An operation that drives edges to a boundary state, with mode-select as that state wants it. -/
theorem of_drove {q : TapState} {m d : Bit} {n : Nat} (hs : s.AtBoundary) (h : s.Drove t q m d n)
    (hq : (Tap.known q).boundary = true) (htlr : q = .tlr → m = true) (hrti : q = .rti → m = false)
    (hshift : t.EmptyShiftReg) : t.AtBoundary where
  tap := by rw [h.tap]; exact hq
  tlr ht := by rw [h.tap, Tap.known.injEq] at ht; rw [h.tms, htlr ht]
  rti ht := by rw [h.tap, Tap.known.injEq] at ht; rw [h.tms, hrti ht]
  srIn := hshift.srIn
  srOut := hshift.srOut
  unknown ht := by rw [h.tap] at ht; cases ht
  known _ := by rw [h.tms, h.tdi]; exact ⟨nofun, nofun⟩
  errors := by rw [h.record.errors]; exact hs.errors

theorem emptyShiftReg (hs : s.AtBoundary) (h : s.SameShiftReg t) : t.EmptyShiftReg :=
  ⟨h.srIn.trans hs.srIn, h.srOut.trans hs.srOut⟩

theorem returns (hs : s.AtBoundary) (r : Result) : (s.returns r).AtBoundary :=
  ⟨hs.tap, hs.tlr, hs.rti, hs.srIn, hs.srOut, hs.unknown, hs.known, hs.errors⟩

theorem raise {kind : ErrorKind} (hs : s.AtBoundary) (info : ErrorInfo) (h : kind.raisedByBlock = true) :
    (s.raise kind info).AtBoundary where
  tap := hs.tap
  tlr := hs.tlr
  rti := hs.rti
  srIn := hs.srIn
  srOut := hs.srOut
  unknown := hs.unknown
  known := hs.known
  errors e he := by
    rcases List.mem_append.mp he with he | he
    · exact hs.errors e he
    · rw [List.mem_singleton.mp he]; exact h

theorem requireTap {legal : Tap → Bool} {body : State → State} (hs : s.AtBoundary)
    (h : legal s.tap = true → (body s).AtBoundary) : (s.requireTap legal body).AtBoundary := by
  rcases s.requireTap_cases legal body with ⟨hlegal, heq⟩ | ⟨-, heq⟩ <;> rw [heq]
  · exact h hlegal
  · exact hs.raise _ rfl

theorem requireBits {bits : BitSeq} {body : State → State} (hs : s.AtBoundary)
    (h : bits ≠ [] → (body s).AtBoundary) : (s.requireBits bits body).AtBoundary := by
  rcases s.requireBits_cases bits body with ⟨hb, heq⟩ | ⟨-, heq⟩ <;> rw [heq]
  · exact h hb
  · exact hs.raise _ rfl

theorem resetSequence (hs : s.AtBoundary) (d : Bit) : (s.resetSequence d).AtBoundary :=
  hs.of_drove (s.resetSequence_drove d) rfl (fun _ => rfl) nofun (hs.emptyShiftReg (s.resetSequence_sameShiftReg d))

theorem gotoShiftIr (hs : s.AtBoundary) (d : Bit) (h : s.tap.resetOrIdle = true) :
    (s.driveEdges (heldAt tmsGotoShiftIr d)).AtBoundary :=
  hs.of_drove (s.driveEdges_gotoShiftIr_drove d h) rfl nofun nofun (hs.emptyShiftReg (s.driveEdges_sameShiftReg _))

theorem gotoShiftDr (hs : s.AtBoundary) (d : Bit) (h : s.tap.resetOrIdle = true) :
    (s.driveEdges (heldAt tmsGotoShiftDr d)).AtBoundary :=
  hs.of_drove (s.driveEdges_gotoShiftDr_drove d h) rfl nofun nofun (hs.emptyShiftReg (s.driveEdges_sameShiftReg _))

theorem returnToIdle (hs : s.AtBoundary) (d : Bit) (h : s.tap.exit1 = true) :
    (s.driveEdges (heldAt tmsReturnToIdle d)).AtBoundary :=
  hs.of_drove (s.driveEdges_returnToIdle_drove d h) rfl nofun (fun _ => rfl)
    (hs.emptyShiftReg (s.driveEdges_sameShiftReg _))

theorem shiftBody {bits : BitSeq} (hs : s.AtBoundary) (hb : bits ≠ []) (h : s.tap.shifting = true) :
    (s.shiftBody bits).1.AtBoundary := by
  rw [State.shiftBody_eq]
  rcases (Tap.shifting_iff _).mp h with h | h
  · exact hs.of_drove ((State.driveEdges_shift_drove (s := s.beginShift _) hb h (.inl ⟨rfl, rfl⟩)).setShiftReg
      [] []).beginShift rfl nofun nofun ⟨rfl, rfl⟩
  · exact hs.of_drove ((State.driveEdges_shift_drove (s := s.beginShift _) hb h (.inr ⟨rfl, rfl⟩)).setShiftReg
      [] []).beginShift rfl nofun nofun ⟨rfl, rfl⟩

/-- Between operations the lines are such that held edges keep the TAP state. -/
theorem heldEdges (hs : s.AtBoundary) (n : Nat) (h : s.tap.mayWait = true) : (s.heldEdges n).AtBoundary := by
  have hkeep : s.tap.afterEdge s.tms = s.tap := Tap.afterEdge_of_wait <|
    ((Tap.mayWait_iff _).mp h).imp_right <| Or.imp (fun ht => ⟨ht, hs.tlr ht⟩) fun ht => ⟨ht, hs.rti ht⟩
  have htap := State.heldEdges_tap hkeep n
  obtain ⟨hrecord, hshift, htms, htdi, -⟩ := s.heldEdges_frame n
  obtain ⟨hsrIn, hsrOut⟩ := hs.emptyShiftReg hshift
  exact
    { tap := by rw [htap]; exact hs.tap
      tlr := by rw [htap, htms]; exact hs.tlr
      rti := by rw [htap, htms]; exact hs.rti
      srIn := hsrIn
      srOut := hsrOut
      unknown := by rw [htap, htms, htdi]; exact hs.unknown
      known := by rw [htap, htms, htdi]; exact hs.known
      errors := by rw [hrecord.errors]; exact hs.errors }

theorem writeInstruction (hs : s.AtBoundary) (bits : BitSeq) : (s.writeInstruction bits).AtBoundary := by
  rcases s.writeInstruction_cases bits with ⟨hb, ht, heq⟩ | ⟨kind, info, hkind, heq⟩ <;> rw [heq]
  · exact (hs.of_drove ((State.scanned_ir_drove hb ht).setShiftReg [] []) rfl nofun (fun _ => rfl) ⟨rfl, rfl⟩).returns _
  · exact hs.raise info hkind

theorem writeData (hs : s.AtBoundary) (bits : BitSeq) (use : BitSeq → Result) : (s.writeData bits use).AtBoundary := by
  rcases s.writeData_cases bits use with ⟨hb, ht, heq⟩ | ⟨kind, info, hkind, heq⟩ <;> rw [heq]
  · exact (hs.of_drove ((State.scanned_dr_drove hb ht).setShiftReg [] []) rfl nofun (fun _ => rfl) ⟨rfl, rfl⟩).returns _
  · exact hs.raise info hkind

end State.AtBoundary

/-- Operations begin and end at a boundary state (R154). -/
theorem exec_atBoundary {i : Instr} {s t : State} (hs : s.AtBoundary) (h : exec i s = .next t) : t.AtBoundary := by
  cases i with
  | reset d => cases h; exact (hs.resetSequence d).returns _
  | gotoShiftIr d => cases h; exact hs.requireTap fun hl => (hs.gotoShiftIr d hl).returns _
  | gotoShiftDr d => cases h; exact hs.requireTap fun hl => (hs.gotoShiftDr d hl).returns _
  | returnToIdle d => cases h; exact hs.requireTap fun hl => (hs.returnToIdle d hl).returns _
  | shift bits => cases h; exact hs.requireBits fun hb => hs.requireTap fun hl => (hs.shiftBody hb hl).returns _
  | wait n => cases h; exact hs.requireTap fun hl => (hs.heldEdges n hl).returns _
  | writeInstruction bits => cases h; exact hs.writeInstruction bits
  | writeData bits => cases h; exact hs.writeData bits _
  | bitsOf value width =>
    rcases lt_or_ge 0 width with hw | hw
    · cases (exec_bitsOf_of_pos value s hw).symm.trans h
      exact hs.returns _
    · cases (exec_bitsOf_of_nonpos value s hw).symm.trans h
      exact hs.raise _ rfl
  | valueOf bits => cases h; exact hs.requireBits fun _ => hs.returns _
  | encode address data op => cases h; exact hs.returns _
  | decode raw => cases h; exact hs.returns _
  | apbNone address data => cases h; exact hs.writeData _ _
  | apbRead address data => cases h; exact hs.writeData _ _
  | apbWrite address data => cases h; exact hs.writeData _ _
  | irIdcode => cases h; exact hs.writeInstruction _
  | irApbControl => cases h; exact hs.writeInstruction _
  | irApbAccess => cases h; exact hs.writeInstruction _

theorem exec_inv {i : Instr} {s t : State} (hs : s.Inv) (h : exec i s = .next t) : t.Inv :=
  ⟨exec_atBoundary hs.boundary h, exec_wellNumbered hs.txns h⟩

/-- Taking a call changes nothing the invariant speaks of. -/
theorem State.Inv.takeCall {s : State} (hs : s.Inv) (rest : List CallWord) (pc : Nat) :
    { s with calls := rest, pc := pc }.Inv :=
  have hb := hs.boundary
  ⟨⟨hb.tap, hb.tlr, hb.rti, hb.srIn, hb.srOut, hb.unknown, hb.known, hb.errors⟩, hs.txns⟩

/-- Settles O6: power-up has no transaction and no driven line. -/
theorem invariantAtPowerUp : Obligations.InvariantAtPowerUp where
  boundary :=
    { tap := rfl
      tlr := nofun
      rti := nofun
      srIn := rfl
      srOut := rfl
      unknown := fun _ => ⟨rfl, rfl⟩
      known := fun h => absurd rfl h
      errors := nofun }
  txns :=
    { scan := nofun
      issued := nofun
      latency := nofun
      distinct := .nil
      reports := nofun
      awaited := nofun
      stray := nofun
      unknownAt := le_rfl }

/-- Settles O7: a step is idle or runs one operation, and each operation keeps both halves of the invariant: the
boundary because of where its edges end, the numbering because every edge keeps it. -/
theorem stepKeepsInvariant : Obligations.StepKeepsInvariant := by
  intro s t hs h
  rcases step_next_cases h with ⟨-, rfl⟩ | ⟨c, rest, i, -, -, hexec⟩
  · exact hs
  · exact exec_inv (hs.takeCall rest _) hexec

end Sys2Proof.Machine

namespace Sys2Proof.Machine

/-! What an update does, seen from states that agree on what it reads and on what it writes (R144). -/

/-- The two targets agree on what Update-DR reads but for the transactions and the register shifted. -/
structure Target.SameUpdateInput (t u : Target) : Prop where
  ir : u.ir = t.ir
  control : u.control = t.control
  scans : u.scans = t.scans
  boot : u.boot = t.boot
  stray : u.stray = t.stray
  unknownAt : u.unknownAt = t.unknownAt

theorem Target.SameRegisters.sameUpdateInput {t u : Target} (h : t.SameRegisters u) : t.SameUpdateInput u :=
  ⟨h.ir, h.control, h.scans, h.boot, h.stray, h.unknownAt⟩

theorem Target.SameRegisters.sameApb {t u : Target} (h : t.SameRegisters u) : t.SameApb u :=
  ⟨h.control, h.scans, h.txns, h.stray, h.unknownAt⟩

theorem Target.captureDr_sameUpdateInput (t : Target) (e : Nat) : t.SameUpdateInput (t.captureDr e) := by
  obtain ⟨hir, hcontrol, hscans, hboot, -, -, -, hstray, hunknownAt, -⟩ := t.captureDr_frame e
  exact ⟨hir, hcontrol, hscans, hboot, hstray, hunknownAt⟩

theorem Target.SameUpdateInput.trans {t u v : Target} (h : t.SameUpdateInput u) (g : u.SameUpdateInput v) :
    t.SameUpdateInput v :=
  ⟨g.ir.trans h.ir, g.control.trans h.control, g.scans.trans h.scans, g.boot.trans h.boot, g.stray.trans h.stray,
    g.unknownAt.trans h.unknownAt⟩

theorem Target.SameUpdateInput.mayBeBusy {t u : Target} (h : t.SameUpdateInput u) (e : Nat) :
    u.mayBeBusy e = t.mayBeBusy e := by
  unfold Target.mayBeBusy
  rw [h.stray, h.unknownAt]

theorem Txn.RequestedAt.congr {x : Txn} {e : Nat} {old : List Txn} {t t' : Target} (h : x.RequestedAt e old t)
    (ht : t'.SameUpdateInput t) : x.RequestedAt e old t' where
  issuedAt := h.issuedAt
  latency := h.latency
  performed hboot hold hbusy := h.performed (ht.boot.trans hboot) hold ((ht.mayBeBusy e).trans hbusy)

theorem Target.UpdatedDr.congr {t t' u u' : Target} {old : List Txn} {n e h : Nat} {reg : BitSeq}
    (H : t.UpdatedDr u old n reg e h) (ht : t'.SameUpdateInput t) (hu : u.SameApb u') :
    t'.UpdatedDr u' old n reg e h := by
  obtain ⟨hunknownAt, hidcode, hcontrol, hframe, hnone, hrequest, hreserved, hunknown⟩ := H
  rw [ht.ir] at hidcode hcontrol hframe hnone hrequest hreserved hunknown
  rw [ht.control, ht.scans, ht.stray, ← hu.control, ← hu.scans, ← hu.txns, ← hu.stray] at hidcode
  rw [ht.scans, ht.stray, ← hu.control, ← hu.scans, ← hu.txns, ← hu.stray] at hcontrol
  rw [ht.control, ht.scans, ht.stray, ← hu.control, ← hu.scans, ← hu.stray] at hframe
  rw [ht.scans, ← hu.control, ← hu.scans, ← hu.txns, ← hu.stray] at hreserved hunknown
  refine ⟨by rw [hu.unknownAt, hunknownAt, ht.unknownAt], hidcode, hcontrol, hframe, ?_, ?_, hreserved, hunknown⟩
  · rw [hu.txns]
    exact hnone
  · intro hir hn access code hcode hs
    obtain ⟨x, htxns, hscan, haccess, haddress, hdata, hdraws⟩ := hrequest hir hn access code hcode hs
    exact ⟨x, hu.txns.trans htxns, by rw [hscan, ht.scans], haccess, haddress, hdata, hdraws.congr ht⟩

/-- Update-DR reads the register shifted only when it has the selected register's length. -/
theorem Target.UpdatedDr.reg_congr {t u : Target} {old : List Txn} {n e h : Nat} {reg reg' : BitSeq}
    (H : t.UpdatedDr u old n reg e h) (hcontrol : t.ir = Config.opcApbControl → n = 32 → reg = reg')
    (hframe : t.ir = Config.opcApbAccess → n = 50 → reg = reg') : t.UpdatedDr u old n reg' e h where
  unknownAt := H.unknownAt
  idcode := H.idcode
  control hir hn := by rw [← hcontrol hir hn]; exact H.control hir hn
  frame hir hn := by rw [← hframe hir hn]; exact H.frame hir hn
  none hir hn := by rw [← hframe hir hn]; exact H.none hir hn
  request hir hn := by rw [← hframe hir hn]; exact H.request hir hn
  reserved hir hn := by rw [← hframe hir hn]; exact H.reserved hir hn
  unknown := H.unknown

theorem keepsIr_reg_congr {ir : BitVec 5} {n : Nat} {reg reg' : BitSeq}
    (h : ir = Config.opcApbAccess → n = 50 → reg = reg') : KeepsIr ir n reg ↔ KeepsIr ir n reg' := by
  unfold KeepsIr
  refine or_congr_right (or_congr_right (and_congr_right fun hir => and_congr_right fun hn => ?_))
  rw [h hir hn]

theorem Target.UpdatedStep.reg_congr {t u : Target} {n h : Nat} {reg reg' : BitSeq} (H : t.UpdatedStep u n reg h)
    (hcontrol : t.ir = Config.opcApbControl → n = 32 → reg = reg')
    (hframe : t.ir = Config.opcApbAccess → n = 50 → reg = reg') : t.UpdatedStep u n reg' h where
  keepsIr hk := H.keepsIr ((keepsIr_reg_congr hframe).mpr hk)
  losesIr hk := H.losesIr (mt (keepsIr_reg_congr hframe).mp hk)
  idcode := H.idcode
  control hir hn := by rw [← hcontrol hir hn]; exact H.control hir hn
  frame hir hn := by rw [← hframe hir hn]; exact H.frame hir hn
  reserved hir hn := by rw [← hframe hir hn]; exact H.reserved hir hn
  unknown := H.unknown

theorem Target.UpdatedStep.congr {t t' u u' : Target} {n h : Nat} {reg : BitSeq} (H : t.UpdatedStep u n reg h)
    (ht : t'.SameUpdateInput t) (hir : u'.ir = u.ir) (hboot : u'.boot = u.boot) (hawaited : u'.awaited = u.awaited) :
    t'.UpdatedStep u' n reg h := by
  obtain ⟨hkeeps, hloses, hidcode, hcontrol, hframe, hreserved, hunknown⟩ := H
  rw [ht.ir] at hkeeps hloses hidcode hcontrol hframe hreserved hunknown
  rw [ht.boot, ← hboot, ← hawaited] at hidcode hcontrol hframe
  rw [← hir] at hkeeps hloses
  rw [← hboot, ← hawaited] at hreserved hunknown
  exact ⟨hkeeps, hloses, hidcode, hcontrol, hframe, hreserved, hunknown⟩

/-! The edge from Exit1-DR into Update-DR, and what may follow it. -/

theorem Target.afterUpdate_sameApb (t : Target) : t.SameApb t.afterUpdate := ⟨rfl, rfl, rfl, rfl, rfl⟩

theorem State.edgeStep_exit1DR_target {s : State} (d : Bit) (h : s.tap = .known .exit1DR) :
    ∃ t : Target, s.target.SameRegisters t ∧ t.shiftReg = s.target.shiftReg ∧ t.shifted = s.target.shifted ∧
      t.history = (s.edgeStep true d).target.history ∧
      (s.edgeStep true d).target = (t.updateDr (s.edges + 1)).afterUpdate := by
  refine ⟨(s.target.record (.driven true) (.driven d)).leave (.known .exit1DR) (.driven d) (s.edges + 1),
    ⟨rfl, rfl, rfl, rfl, rfl, rfl, rfl, rfl, rfl, rfl⟩, rfl, rfl, (s.edgeStep_history true d).symm, ?_⟩
  rw [State.edgeStep_target, h]
  rfl

/-- Once the TAP has left Exit1-DR through Update-DR, TMS values that spare the APB side leave the update as it is. -/
theorem State.exit1DR_updatedDr {s : State} {ms : BitSeq} (d : Bit) (h : s.tap = .known .exit1DR)
    (hms : TapState.updateDR.sparesApb ms = true) :
    s.target.UpdatedDr ((s.edgeStep true d).driveEdges (heldAt ms d)).target s.target.txns s.target.shifted
      s.target.shiftReg (s.edges + 1) (s.edgeStep true d).target.history := by
  obtain ⟨t, hst, hreg, hshifted, hhistory, hedge⟩ := s.edgeStep_exit1DR_target d h
  have htap : (s.edgeStep true d).tap = .known .updateDR := by rw [State.edgeStep_tap, h]; rfl
  have hrest := State.driveEdges_sameApb d htap hms
  have hupdate := t.updateDr_updated (s.edges + 1)
  rw [hst.txns, hshifted, hreg, hhistory] at hupdate
  refine hupdate.congr hst.sameUpdateInput ((Target.afterUpdate_sameApb _).trans ?_)
  rw [← hedge]
  exact hrest

/-- Settles O18: the five bits of the IR, or the update of the data register at the first edge. -/
theorem returnToIdleCompletes : Obligations.ReturnToIdleCompletes := by
  intro s d h
  refine ⟨_, exec_returnToIdle_of_legal d h, (s.driveEdges_returnToIdle_drove d h).returns _,
    (s.driveEdges_sameShiftReg _).returns _, rfl, ?_⟩
  rw [State.returns_target]
  rcases (Tap.exit1_iff _).mp h with hir | hdr
  · obtain ⟨t, hst, hreg, hshifted, hhistory, hend⟩ := State.driveEdges_returnToIdle_target_ir d hir
    refine ⟨hend.fromTlr, fun _ => ⟨hend.control.trans hst.control, hend.txns.trans hst.txns,
      hend.scans.trans hst.scans, hend.boot.trans hst.boot, hend.stray.trans hst.stray,
      hend.unknownAt.trans hst.unknownAt, ?_⟩, fun hdr => by rw [hir] at hdr; cases hdr⟩
    rw [hend.ir, Target.afterUpdate_ir, Target.updateIr_ir, hshifted, hreg, hhistory]
  · obtain ⟨t, hst, hreg, hshifted, hhistory, hend⟩ := State.driveEdges_returnToIdle_target_dr d hdr
    have hstep := t.updateDr_step (s.edges + 1)
    rw [hshifted, hreg, hhistory] at hstep
    exact ⟨hend.fromTlr, fun hir => (by rw [hdr] at hir; cases hir),
      fun _ => ⟨State.exit1DR_updatedDr (ms := [false]) d hdr (by decide),
        hstep.congr hst.sameUpdateInput hend.ir hend.boot hend.awaited⟩⟩

/-- Settles O48: from Exit1-DR the first edge of a reset is the update and the other four spare the APB side; from Shift-DR
one more bit is shifted before. -/
theorem resetPassesUpdateDr : Obligations.ResetPassesUpdateDr := by
  intro s t d k n reg ht hs
  cases ht
  refine ⟨?_, rfl, rfl⟩
  rcases hs with ⟨htap, rfl, rfl, rfl⟩ | ⟨htap, rfl, rfl, rfl⟩
  · exact (State.exit1DR_updatedDr (ms := [true, true, true, true]) d htap (by decide)).congr
      (Target.SameRegisters.refl _).sameUpdateInput (Target.enterTlr_sameApb _)
  · obtain ⟨hsame, hreg, hshifted⟩ := State.edgeStep_shift_target (.inr rfl) htap true d
    have hexit : (s.edgeStep true d).tap = .known .exit1DR := by rw [State.edgeStep_tap, htap]; rfl
    have hupdate := State.exit1DR_updatedDr (ms := [true, true, true]) d hexit (by decide)
    rw [hreg, hshifted, hsame.txns] at hupdate
    exact hupdate.congr hsame.sameUpdateInput (Target.enterTlr_sameApb _)

end Sys2Proof.Machine

namespace Sys2Proof.Machine

/-! Family 42_scan_operations: whole scans (R180 to R184). -/

theorem ofNat_valueOfBits_bitsOfNat (v w : Nat) : BitVec.ofNat w (valueOfBits (bitsOfNat v w)) = BitVec.ofNat w v := by
  rw [valueOfBits_bitsOfNat]
  exact BitVec.eq_of_toNat_eq (by simp)

theorem ofNat_eq_zero_iff (v w : Nat) : BitVec.ofNat w v = 0#w ↔ v % 2 ^ w = 0 := by
  rw [← BitVec.toNat_inj, BitVec.toNat_ofNat, BitVec.toNat_ofNat, Nat.zero_mod]

/-- Settles O29: the scan ends in Run-Test/Idle, and Update-IR is the only change of the target's registers. -/
theorem writeInstructionCompletes : Obligations.WriteInstructionCompletes := by
  intro s bits hb h
  obtain ⟨u, hsame, hshifted, hreg, hhistory, hend⟩ := State.scanned_ir_target hb h
  refine ⟨_, exec_writeInstruction_of_legal hb h, ((State.scanned_ir_drove hb h).setShiftReg [] []).returns _,
    ⟨rfl, rfl⟩, rfl, fun h5 => ?_, fun h5 => ?_, hend.control.trans hsame.control, hend.txns.trans hsame.txns,
    hend.scans.trans hsame.scans, hend.boot.trans hsame.boot, hend.stray.trans hsame.stray,
    hend.unknownAt.trans hsame.unknownAt⟩
  · exact hend.ir.trans (by rw [Target.afterUpdate_ir, Target.updateIr_ir, hshifted, if_pos h5, hreg h5])
  · exact hend.ir.trans (by rw [Target.afterUpdate_ir, Target.updateIr_ir, hshifted, if_neg h5, hhistory])

/-- An opcode row writes its five bits by `write_instruction` (R183). -/
theorem writeOpcode_completes {s : State} (opcode : BitVec 5) (h : s.tap.resetOrIdle = true) :
    s.Drove (s.writeOpcode opcode) .rti false false 12 ∧ (s.writeOpcode opcode).EmptyShiftReg ∧
      (s.writeOpcode opcode).result = .nothing ∧ (s.writeOpcode opcode).target.ir = opcode ∧
      (s.writeOpcode opcode).target.control = s.target.control ∧
      (s.writeOpcode opcode).target.txns = s.target.txns ∧ (s.writeOpcode opcode).target.scans = s.target.scans ∧
      (s.writeOpcode opcode).target.boot = s.target.boot := by
  obtain ⟨t, ht, hdrove, hempty, hresult, hir, -, hcontrol, htxns, hscans, hboot, -, -⟩ :=
    writeInstructionCompletes s _ (bitsOfNat_ne_nil opcode.toNat (w := 5) (by decide)) h
  cases ht
  rw [bitsOfNat_length] at hdrove
  refine ⟨hdrove, hempty, hresult, ?_, hcontrol, htxns, hscans, hboot⟩
  exact (hir (bitsOfNat_length _ _)).trans
    (by rw [ofNat_valueOfBits_bitsOfNat, BitVec.ofNat_toNat, BitVec.setWidth_eq])

/-- Settles O30: each row is the write of its opcode. -/
theorem irOpcodesComplete : Obligations.IrOpcodesComplete := by
  intro s i opcode h hi
  simp only [List.mem_cons, List.not_mem_nil, or_false, Prod.mk.injEq] at hi
  rcases hi with ⟨rfl, rfl⟩ | ⟨rfl, rfl⟩ | ⟨rfl, rfl⟩ <;> exact ⟨_, rfl, writeOpcode_completes _ h⟩

/-! The register captured has the length of the one the IR selects (R46). -/

theorem Target.captureDr_shiftReg_control {t : Target} (h : t.ir = Config.opcApbControl) (e : Nat) :
    (t.captureDr e).shiftReg = bitsOfNat (Config.controlCapture t.history).toNat 32 := by
  simp only [Target.captureDr, h, selectedDr_control]

theorem Target.captureDr_shiftReg_access {t : Target} (h : t.ir = Config.opcApbAccess) (e : Nat) :
    (t.captureDr e).shiftReg =
      bitsOfNat (replyFrame (Config.freeReply t.history)
        (Target.pairing e { t with shifted := 0, tdo := Config.tdo t.history e })).toNat 50 := by
  simp only [Target.captureDr, h, selectedDr_access]

theorem Target.captureDr_shiftReg_idcode {t : Target} (h : t.ir = Config.opcIdcode) (e : Nat) :
    (t.captureDr e).shiftReg = Config.idcodes.flatMap fun c => bitsOfNat c.toNat 32 := by
  simp only [Target.captureDr, h, selectedDr_idcode]

/-- A shift as long as the register leaves in it the bits shifted in. -/
theorem foldl_shiftIn_beginShift {t : Target} {bits : BitSeq} (h : bits.length = t.shiftReg.length) :
    bits.foldl shiftIn (t.beginShift bits.length).shiftReg = bits := by
  rw [Target.beginShift_of_length h, foldl_shiftIn _ _ h.le, h, List.drop_length, List.nil_append]

/-- What a data scan from TLR or RTI does to the target: the capture may show the READ waited for to have been performed,
and the bits take effect at edge `n + 5`. -/
theorem State.scanned_dr_updated {s : State} {bits : BitSeq} (hb : bits ≠ []) (h : s.tap.resetOrIdle = true) :
    ∃ old, (s.scanned tmsGotoShiftDr bits).target.fromTlr = false ∧
      SameRequests (s.target.awaitedRead (s.edges + 4)) s.target.txns old ∧
      (s.target.ir ≠ Config.opcApbAccess → old = s.target.txns) ∧
      s.target.UpdatedDr (s.scanned tmsGotoShiftDr bits).target old bits.length bits (s.edges + bits.length + 5)
        (s.driveEdges (heldAt tmsGotoShiftDr false ++ shiftEdges bits ++ [(true, false)])).target.history ∧
      s.target.UpdatedStep (s.scanned tmsGotoShiftDr bits).target bits.length bits
        (s.driveEdges (heldAt tmsGotoShiftDr false ++ shiftEdges bits ++ [(true, false)])).target.history := by
  obtain ⟨t, u, hst, hu, -, hreg, hshifted, hhistory, hend⟩ := State.scanned_dr_target hb h
  have hinput : s.target.SameUpdateInput u :=
    (hst.sameUpdateInput.trans (t.captureDr_sameUpdateInput _)).trans hu.sameUpdateInput
  have hcontrol (hir : s.target.ir = Config.opcApbControl) (hn : bits.length = 32) : u.shiftReg = bits := by
    rw [hreg, foldl_shiftIn_beginShift]
    rw [Target.captureDr_shiftReg_control (hst.ir.trans hir), bitsOfNat_length, hn]
  have hframe (hir : s.target.ir = Config.opcApbAccess) (hn : bits.length = 50) : u.shiftReg = bits := by
    rw [hreg, foldl_shiftIn_beginShift]
    rw [Target.captureDr_shiftReg_access (hst.ir.trans hir), bitsOfNat_length, hn]
  have hupdate := u.updateDr_updated (s.edges + bits.length + 5)
  have hstep := u.updateDr_step (s.edges + bits.length + 5)
  rw [hshifted, hhistory] at hupdate hstep
  refine ⟨u.txns, hend.fromTlr, ?_, fun hir => ?_, ?_, ?_⟩
  · rw [hu.txns]
    exact Target.captureDr_requests_of_same hst _
  · rw [hu.txns, t.captureDr_txns _ (selectedDr_ne_access (hst.ir ▸ hir)), hst.txns]
  · exact (hupdate.congr hinput ((Target.afterUpdate_sameApb _).trans hend.sameApb)).reg_congr hcontrol hframe
  · exact (hstep.congr hinput hend.ir hend.boot hend.awaited).reg_congr hcontrol hframe

/-- Settles O31: the drive of a whole data scan, and its update. -/
theorem writeDataCompletes : Obligations.WriteDataCompletes := by
  intro s bits hb h
  obtain ⟨old, hfromTlr, hold, hother, hupdate, hstep⟩ := State.scanned_dr_updated hb h
  exact ⟨_, old, _, exec_writeData_of_legal hb h, ((State.scanned_dr_drove hb h).setShiftReg [] []).returns _,
    ⟨rfl, rfl⟩, rfl, hfromTlr, hold, hother, rfl, hupdate, hstep⟩

/-- Settles O32: the clauses of the update for a control word. -/
theorem controlScanWritesControl : Obligations.ControlScanWritesControl := by
  intro s t word h hir ht
  obtain ⟨u, old, hist, hu, -, -, -, -, -, hold, -, hupdate, hstep⟩ :=
    writeDataCompletes s (bitsOfNat word 32) (bitsOfNat_ne_nil word (by decide)) h
  cases hu.symm.trans ht
  rw [bitsOfNat_length] at hupdate hstep
  obtain ⟨hcontrol, hscans, htxns, hstray⟩ := hupdate.control hir rfl
  obtain ⟨-, hboot⟩ := hstep.control hir rfl
  rw [ofNat_valueOfBits_bitsOfNat] at hcontrol hstray hboot
  have hne : s.target.ir ≠ Config.opcApbAccess := hir ▸ opcApbAccess_ne_control.symm
  refine ⟨hcontrol, hstep.keepsIr (.inr (.inl hir)), htxns.trans (hold hne), hscans, fun hw => ?_, fun hw => ?_⟩
  · have hzero := (ofNat_eq_zero_iff word 32).mpr hw
    rw [if_pos hzero] at hstray hboot
    exact ⟨hstray, fun hb => hboot.trans (if_pos hb), fun hb => hboot.trans (if_neg hb)⟩
  · have hnonzero := mt (ofNat_eq_zero_iff word 32).mp hw
    rw [if_neg hnonzero] at hstray hboot
    exact ⟨hstray, hboot⟩

theorem State.Drove.trans {s t u : State} {p q : TapState} {m d m' d' : Bit} {n k : Nat} (h : s.Drove t p m d n)
    (g : t.Drove u q m' d' k) : s.Drove u q m' d' (n + k) where
  tap := g.tap
  tms := g.tms
  tdi := g.tdi
  edges := by rw [g.edges, h.edges, Nat.add_assoc]
  record := ⟨g.record.errors.trans h.record.errors, g.record.calls.trans h.record.calls,
    g.record.pc.trans h.record.pc⟩

theorem State.Drove.resetOrIdle {s t : State} {q : TapState} {m d : Bit} {n : Nat} (h : s.Drove t q m d n)
    (hq : q = .tlr ∨ q = .rti) : t.tap.resetOrIdle = true := by
  rw [Tap.resetOrIdle_iff, h.tap]
  exact hq.imp (congrArg Tap.known) (congrArg Tap.known)

/-- Settles O33: 5 + 12 + 38 + 12 edges; the control word 0 completes the boot step that the reset began. -/
theorem bootSequenceSelectsApbAccess : Obligations.BootSequenceSelectsApbAccess := by
  intro s a b c d tdi ha hb hc hd
  cases ha
  have hA : s.Drove ((s.resetSequence tdi).returns .nothing) .tlr true tdi 5 := (s.resetSequence_drove tdi).returns _
  obtain ⟨hB, -, -, hir, -, -, -, hboot⟩ := writeOpcode_completes Config.opcApbControl (hA.resetOrIdle (.inl rfl))
  cases hb
  obtain ⟨u, old, hist, hu, hC, -, -, -, -, -, -, -, -⟩ :=
    writeDataCompletes _ (bitsOfNat 0 32) (bitsOfNat_ne_nil 0 (by decide)) (hB.resetOrIdle (.inr rfl))
  obtain ⟨hcontrol, -, -, -, hzero, -⟩ := controlScanWritesControl _ c 0 (hB.resetOrIdle (.inr rfl)) hir hc
  cases hu.symm.trans hc
  obtain ⟨hD, -, -, hirD, hcontrolD, -, -, hbootD⟩ :=
    writeOpcode_completes Config.opcApbAccess (hC.resetOrIdle (.inr rfl))
  cases hd
  obtain ⟨-, hready, -⟩ := hzero rfl
  exact ⟨((hA.trans hB).trans hC).trans hD, hirD, hcontrolD.trans hcontrol, hbootD.trans (hready (hboot.trans rfl))⟩

/-- Settles O50: the clauses of the update for operation code 3. -/
theorem reservedOperationLosesState : Obligations.ReservedOperationLosesState := by
  intro s t bits hist h hir hlen hstatus ht hhist
  have hb : bits ≠ [] := by rintro rfl; cases hlen
  obtain ⟨u, old, k, hu, -, -, -, -, hold, -, hk, hupdate, hstep⟩ := writeDataCompletes s bits hb h
  cases hu.symm.trans ht
  rw [← hhist] at hk
  subst hk
  rw [hlen] at hupdate hstep
  obtain ⟨hcontrol, hscans, htxns, hstray⟩ := hupdate.reserved hir rfl hstatus
  obtain ⟨hboot, hawaited⟩ := hstep.reserved hir rfl hstatus
  have hloses : ¬ KeepsIr s.target.ir 50 bits := by
    rintro (hk | hk | ⟨-, -, hk⟩)
    · exact opcApbAccess_ne_idcode (hir.symm.trans hk)
    · exact opcApbAccess_ne_control (hir.symm.trans hk)
    · exact hk hstatus
  exact ⟨hstep.losesIr hloses, hcontrol, hboot, hawaited, hstray, hscans, htxns ▸ hold⟩

end Sys2Proof.Machine

namespace Sys2Proof.Machine

/-! The samples of a shift, one by one (R142, R144). -/

/-- Sample `i` is serial-out after the first `i + 1` edges. -/
theorem State.samples_getElem? {es : List (Bit × Bit)} {i : Nat} (h : i < es.length) (s : State) :
    (State.samples es s)[i]? = some (s.driveEdges (es.take (i + 1))).sample := by
  induction es generalizing s i with
  | nil => cases h
  | cons e es ih =>
    cases i with
    | zero => rfl
    | succ i => exact ih (Nat.lt_of_succ_lt_succ h) (s.edgeStep e.1 e.2)

/-- While a shift is not complete the TAP stays in its Shift state and the bits enter the register. -/
theorem State.driveEdges_take_shift {s : State} {q : TapState} {bits : BitSeq} {i : Nat}
    (hq : q = .shiftIR ∨ q = .shiftDR) (h : s.tap = .known q) (hi : i < bits.length) :
    (s.driveEdges ((shiftEdges bits).take i)).tap = .known q ∧
      s.target.SameRegisters (s.driveEdges ((shiftEdges bits).take i)).target ∧
      (s.driveEdges ((shiftEdges bits).take i)).target.shiftReg = (bits.take i).foldl shiftIn s.target.shiftReg ∧
      (s.driveEdges ((shiftEdges bits).take i)).target.shifted = s.target.shifted + i := by
  induction i generalizing s bits with
  | zero => exact ⟨h, .refl _, rfl, rfl⟩
  | succ i ih =>
    cases bits with
    | nil => cases hi
    | cons b bs =>
      have hi' : i < bs.length := Nat.lt_of_succ_lt_succ hi
      have hempty : bs.isEmpty = false := by
        cases bs with
        | nil => cases hi'
        | cons _ _ => rfl
      have htap : (s.edgeStep false b).tap = .known q := by
        rw [State.edgeStep_tap, h]
        rcases hq with rfl | rfl <;> rfl
      obtain ⟨h1, h2, h3⟩ := State.edgeStep_shift_target hq h false b
      obtain ⟨g0, g1, g2, g3⟩ := ih htap hi'
      rw [shiftEdges_cons, List.take_succ_cons, State.driveEdges_cons, hempty, List.take_succ_cons, List.foldl_cons]
      exact ⟨g0, h1.trans g1, by rw [g2, h2], by rw [g3, h3, Nat.add_assoc, Nat.add_comm 1]⟩

/-- The edge after the first `i` of a sequence. -/
theorem State.driveEdges_take_succ {es : List (Bit × Bit)} {i : Nat} (h : i < es.length) (s : State) :
    s.driveEdges (es.take (i + 1)) = (s.driveEdges (es.take i)).edgeStep es[i].1 es[i].2 := by
  rw [List.take_succ_eq_append_getElem h, State.driveEdges_append]
  rfl

theorem State.driveEdges_take_edges {es : List (Bit × Bit)} {i : Nat} (h : i < es.length) (s : State) :
    (s.driveEdges (es.take i)).edges = s.edges + i := by
  rw [State.driveEdges_edges, List.length_take, Nat.min_eq_left h.le]

/-- An edge that leaves Shift-DR samples what the register and the free value give. -/
theorem State.edgeStep_sample_shiftDR {s : State} (h : s.tap = .known .shiftDR) (m d : Bit) :
    (s.edgeStep m d).sample =
      s.target.serialOut (Config.tdo (s.edgeStep m d).target.history (s.edges + 1)) := by
  rw [State.sample, State.edgeStep_history, State.edgeStep_target, Target.edge, Target.enter_tdo, h]
  rfl

theorem Target.serialOut_of_shifted_lt {t : Target} (free : Bit) (h : t.shifted < t.shiftReg.length) :
    t.serialOut free = t.shiftReg.headD free := if_pos h

theorem Target.serialOut_end {t : Target} (free : Bit) (h : t.ReadsIdcodes) (hn : t.shifted = t.shiftReg.length) :
    t.serialOut free = false := by
  rw [Target.serialOut, if_neg hn.not_lt, if_pos ⟨h, hn⟩]

theorem Target.serialOut_free {t : Target} (free : Bit) (h : t.shiftReg.length ≤ t.shifted)
    (hfree : ¬ (t.ReadsIdcodes ∧ t.shifted = t.shiftReg.length)) : t.serialOut free = free := by
  rw [Target.serialOut, if_neg h.not_gt, if_neg hfree]

/-- Sample `i` of a shift in Shift-DR, by what the target holds after `i` edges. -/
theorem State.samples_shiftDR_getElem? {s : State} {bits : BitSeq} {i : Nat} (h : s.tap = .known .shiftDR)
    (hi : i < bits.length) :
    ∃ u : Target, s.target.SameRegisters u ∧ u.shiftReg = (bits.take i).foldl shiftIn s.target.shiftReg ∧
      u.shifted = s.target.shifted + i ∧
      (State.samples (shiftEdges bits) s)[i]? =
        some (u.serialOut (Config.tdo (s.driveEdges ((shiftEdges bits).take (i + 1))).target.history
          (s.edges + i + 1))) := by
  have hi' : i < (shiftEdges bits).length := by rwa [shiftEdges_length]
  obtain ⟨htap, hsame, hreg, hshifted⟩ := State.driveEdges_take_shift (.inr rfl) h hi
  refine ⟨_, hsame, hreg, hshifted, ?_⟩
  rw [State.samples_getElem? hi', State.driveEdges_take_succ hi', State.edgeStep_sample_shiftDR htap,
    State.driveEdges_take_edges hi']

theorem length_foldl_shiftIn (bits reg : BitSeq) : (bits.foldl shiftIn reg).length = reg.length := by
  induction bits generalizing reg with
  | nil => rfl
  | cons b bs ih => rw [List.foldl_cons, ih, shiftIn_length]

theorem Target.SameRegisters.readsIdcodes {t u : Target} (h : t.SameRegisters u) : u.ReadsIdcodes ↔ t.ReadsIdcodes := by
  rw [Target.ReadsIdcodes, h.fromTlr, h.ir]

/-- After `i` shifts bit `i` of the captured register stands next to serial-out. -/
theorem headD_foldl_shiftIn {reg bits : BitSeq} {i : Nat} (free : Bit) (hb : i < bits.length) (hr : i < reg.length) :
    ((bits.take i).foldl shiftIn reg).headD free = reg[i] := by
  have hlen : (bits.take i).length = i := by rw [List.length_take, Nat.min_eq_left hb.le]
  rw [foldl_shiftIn _ _ (by rw [hlen]; exact hr.le), hlen, List.drop_eq_getElem_cons hr]
  rfl

/-- Right after a capture the samples are the captured bits (R144). -/
theorem State.samples_captured {s : State} {bits : BitSeq} {i : Nat} (h : s.tap = .known .shiftDR)
    (h0 : s.target.shifted = 0) (hb : i < bits.length) (hr : i < s.target.shiftReg.length) :
    (State.samples (shiftEdges bits) s)[i]? = s.target.shiftReg[i]? := by
  obtain ⟨u, -, hreg, hshifted, hsample⟩ := State.samples_shiftDR_getElem? h hb
  have hlt : u.shifted < u.shiftReg.length := by
    rw [hreg, length_foldl_shiftIn, hshifted, h0, Nat.zero_add]
    exact hr
  rw [hsample, Target.serialOut_of_shifted_lt _ hlt, hreg, headD_foldl_shiftIn _ hb hr, List.getElem?_eq_getElem hr]

/-- The sample after the last IDCODE of R47 is 0. -/
theorem State.samples_idcode_end {s : State} {bits : BitSeq} (h : s.tap = .known .shiftDR)
    (h0 : s.target.shifted = 0) (hids : s.target.ReadsIdcodes) (hb : s.target.shiftReg.length < bits.length) :
    (State.samples (shiftEdges bits) s)[s.target.shiftReg.length]? = some false := by
  obtain ⟨u, hsame, hreg, hshifted, hsample⟩ := State.samples_shiftDR_getElem? h hb
  have hend : u.shifted = u.shiftReg.length := by
    rw [hreg, length_foldl_shiftIn, hshifted, h0, Nat.zero_add]
  rw [hsample, Target.serialOut_end _ (hsame.readsIdcodes.mpr hids) hend]

/-- What a `shift` that handed back bits did. -/
theorem exec_shift_eq_bits {s t : State} {bits r : BitSeq} (hb : bits ≠ []) (hs : s.tap.shifting = true)
    (h : exec (.shift bits) s = .next t) (hr : t.result = .bits r) :
    r = State.samples (shiftEdges bits) (s.beginShift bits.length) := by
  cases (exec_shift_of_legal hb hs).symm.trans h
  cases hr
  rfl

theorem Tap.shifting_shiftDR {q : Tap} (h : q = .known .shiftDR) : q.shifting = true := (Tap.shifting_iff q).mpr (.inr h)

theorem Tap.shifting_shiftIR {q : Tap} (h : q = .known .shiftIR) : q.shifting = true := (Tap.shifting_iff q).mpr (.inl h)

/-- Settles O20: such a shift loses nothing of the register as it begins, so its samples are the captured bits. -/
theorem shiftReturnsCapturedBits : Obligations.ShiftReturnsCapturedBits := by
  intro s t bits r hs h0 ht hr
  have hne {i : Nat} (hi : i < bits.length) : bits ≠ [] := by rintro rfl; cases hi
  refine ⟨fun hlen i hb hi => ?_, fun hids hb => ?_⟩
  · have hbegin : s.beginShift bits.length = s := by
      rw [State.beginShift, Target.beginShift, if_pos hlen]
    rw [exec_shift_eq_bits (hne hb) (Tap.shifting_shiftDR hs) ht hr, hbegin]
    exact State.samples_captured hs h0 hb hi
  · have hbegin : s.beginShift bits.length = s := by
      rw [State.beginShift, Target.beginShift_of_idcode _ hids]
    rw [exec_shift_eq_bits (hne hb) (Tap.shifting_shiftDR hs) ht hr, hbegin]
    exact State.samples_idcode_end hs h0 hids hb

theorem State.samples_shiftIR_getElem? {s : State} {bits : BitSeq} {i : Nat} (h : s.tap = .known .shiftIR)
    (hi : i < bits.length) :
    (State.samples (shiftEdges bits) s)[i]? =
      some (Config.tdo (s.driveEdges ((shiftEdges bits).take (i + 1))).target.history (s.edges + i + 1)) := by
  have hi' : i < (shiftEdges bits).length := by rwa [shiftEdges_length]
  obtain ⟨htap, -, -, -⟩ := State.driveEdges_take_shift (.inl rfl) h hi
  rw [State.samples_getElem? hi', State.driveEdges_take_succ hi',
    State.edgeStep_sample_free (by rw [htap]; nofun), State.driveEdges_take_edges hi']

/-- The history after these edges does not depend on what a beginning shift loses. -/
theorem State.driveEdges_beginShift_history (es : List (Bit × Bit)) (n : Nat) (s : State) :
    ((s.beginShift n).driveEdges es).target.history = (s.driveEdges es).target.history :=
  State.driveEdges_history es (s.target.beginShift_history n)

/-- Settles O49: in the IR every sample is free; a lost register is empty, so serial-out is free; and after the end marker
the chain has been shifted out. -/
theorem unfixedSamplesAreTheOracles : Obligations.UnfixedSamplesAreTheOracles := by
  intro s t bits r i hi hs ht hr
  have hb : bits ≠ [] := by rintro rfl; cases hi
  rcases hs with hir | ⟨hdr, hids, hlen⟩ | ⟨hdr, hids, h0, hlt⟩
  · rw [exec_shift_eq_bits hb (Tap.shifting_shiftIR hir) ht hr,
      State.samples_shiftIR_getElem? (s := s.beginShift bits.length) hir hi, State.driveEdges_beginShift_history]
    rfl
  · obtain ⟨u, hsame, hreg, -, hsample⟩ :=
      State.samples_shiftDR_getElem? (s := s.beginShift bits.length) hdr hi
    have hlost : u.shiftReg.length = 0 := by
      rw [hreg, length_foldl_shiftIn, State.beginShift_target, Target.beginShift, if_neg (not_or.mpr ⟨hlen, hids⟩)]
      rfl
    have hids' : ¬ u.ReadsIdcodes := by
      rwa [((s.target.beginShift_same _).trans hsame).readsIdcodes]
    rw [exec_shift_eq_bits hb (Tap.shifting_shiftDR hdr) ht hr, hsample,
      Target.serialOut_free _ (by omega) fun h => hids' h.1, State.driveEdges_beginShift_history]
    rfl
  · obtain ⟨u, -, hreg, hshifted, hsample⟩ := State.samples_shiftDR_getElem? hdr hi
    have hpast : u.shiftReg.length < u.shifted := by
      rw [hreg, length_foldl_shiftIn, hshifted, h0]
      omega
    have hbegin : s.beginShift bits.length = s := by
      rw [State.beginShift, Target.beginShift_of_idcode _ hids]
    rw [exec_shift_eq_bits hb (Tap.shifting_shiftDR hdr) ht hr, hbegin, hsample,
      Target.serialOut_free _ hpast.le fun h => hpast.ne' h.2]

/-! The IDCODE scan (R47). -/

theorem idcodes_flatMap_length (l : List (BitVec 32)) :
    (l.flatMap fun c => bitsOfNat c.toNat 32).length = 32 * l.length := by
  induction l with
  | nil => rfl
  | cons c cs ih => simp only [List.flatMap_cons, List.length_append, bitsOfNat_length, ih, List.length_cons]; omega

theorem idcodes_length : Config.idcodes.length = Config.chain.length := List.length_map _

theorem idcodes_getLsbD_zero {c : BitVec 32} (h : c ∈ Config.idcodes) : c.getLsbD 0 = true := by
  obtain ⟨upper, -, rfl⟩ := List.mem_map.mp h
  rw [BitVec.getLsbD_append]
  rfl

/-- The data scan of a shift as long as the IDCODE chain and one bit more, entered from Test-Logic-Reset. -/
theorem State.samples_idcode_chain {s : State} {bits : BitSeq} (h : s.tap = .known .shiftDR)
    (h0 : s.target.shifted = 0) (hids : s.target.ReadsIdcodes) (hb : bits.length = s.target.shiftReg.length + 1) :
    State.samples (shiftEdges bits) (s.beginShift bits.length) = s.target.shiftReg ++ [false] := by
  have hbegin : s.beginShift bits.length = s := by
    rw [State.beginShift, Target.beginShift_of_idcode _ hids]
  rw [hbegin]
  refine List.ext_getElem? fun i => ?_
  rcases lt_trichotomy i s.target.shiftReg.length with hi | rfl | hi
  · rw [List.getElem?_append_left hi]
    exact State.samples_captured h h0 (by omega) hi
  · rw [List.getElem?_concat_length]
    exact State.samples_idcode_end h h0 hids (by omega)
  · rw [List.getElem?_eq_none, List.getElem?_eq_none]
    · rw [List.length_append, List.length_singleton]; omega
    · rw [State.samples_length, shiftEdges_length]; omega

/-- Settles O34: after a reset the chain is captured, in a Shift-DR entered from Test-Logic-Reset. -/
theorem idcodeDiscovery : Obligations.IdcodeDiscovery := by
  refine ⟨fun c => idcodes_getLsbD_zero, fun s a b d bits ha hlen hw => ?_⟩
  obtain ⟨a', ha', hdrove, -, -, hir, hfromTlr⟩ := resetCompletes s d
  cases ha'.symm.trans ha
  have hlegal : a.tap.resetOrIdle = true := hdrove.resetOrIdle (.inl rfl)
  have hb : bits ≠ [] := by rintro rfl; cases hlen
  cases (exec_writeData_of_legal hb hlegal).symm.trans hw
  obtain ⟨t, hsame, ht⟩ := State.driveEdges_gotoShiftDr_target false hlegal
  obtain ⟨hirC, -, -, -, -, -, hshifted, -, -, hfromTlrC⟩ := t.captureDr_frame (a.edges + 4)
  have hreg := Target.captureDr_shiftReg_idcode (hsame.ir.trans hir) (a.edges + 4)
  rw [← ht] at hirC hshifted hfromTlrC hreg
  have hids : (a.driveEdges (heldAt tmsGotoShiftDr false)).target.ReadsIdcodes :=
    ⟨hfromTlrC.trans (hsame.fromTlr.trans hfromTlr), hirC.trans (hsame.ir.trans hir)⟩
  have hlength : bits.length = (a.driveEdges (heldAt tmsGotoShiftDr false)).target.shiftReg.length + 1 := by
    rw [hreg, idcodes_flatMap_length, idcodes_length, hlen]
  have hsamples :=
    State.samples_idcode_chain (State.driveEdges_gotoShiftDr_tap false hlegal) hshifted hids hlength
  rw [hreg] at hsamples
  exact congrArg Result.bits hsamples

end Sys2Proof.Machine

namespace Sys2Proof.Machine

/-! Family 43_apb_frame_codec: the frame rows are data scans of 50 bits (R203 to R205). -/

theorem frameBits_length (a d : Nat) (op : ApbOp) : (frameBits a d op).length = 50 := bitsOfNat_length _ _

theorem valueOfBits_frameBits (a d : Nat) (op : ApbOp) : valueOfBits (frameBits a d op) = encodeFrame a d op :=
  (valueOfBits_bitsOfNat _ 50).trans (Nat.mod_eq_of_lt (encodeFrame_lt a d op))

/-- What a frame row makes of the samples: WRITE discards them (R204). -/
def frameResult (samples : BitSeq) : ApbOp → Result
  | .none => decodedReply (valueOfBits samples)
  | .read => decodedReply (valueOfBits samples)
  | .write => .nothing

theorem exec_frameRow (a d : Nat) (op : ApbOp) (s : State) :
    exec (frameRow a d op) s = .next (s.writeData (frameBits a d op) (frameResult · op)) := by
  cases op <;> rfl

/-- The samples of a frame row's scan. -/
def State.frameSamples (a d : Nat) (op : ApbOp) (s : State) : BitSeq :=
  State.samples (shiftEdges (frameBits a d op)) (s.scanShift tmsGotoShiftDr 50)

theorem State.frameSamples_length (a d : Nat) (op : ApbOp) (s : State) : (s.frameSamples a d op).length = 50 := by
  rw [State.frameSamples, State.samples_length, shiftEdges_length, frameBits_length]

/-- The state a frame row ends in, from TLR or RTI. -/
def State.frameEnd (a d : Nat) (op : ApbOp) (s : State) : State :=
  ((s.scanned tmsGotoShiftDr (frameBits a d op)).setShiftReg [] []).returns (frameResult (s.frameSamples a d op) op)

theorem State.frameEnd_target (a d : Nat) (op : ApbOp) (s : State) :
    (s.frameEnd a d op).target = (s.scanned tmsGotoShiftDr (frameBits a d op)).target := by
  rw [State.frameEnd, State.returns_target, State.setShiftReg_target]

theorem exec_frameRow_of_legal {s : State} (a d : Nat) (op : ApbOp) (h : s.tap.resetOrIdle = true) :
    exec (frameRow a d op) s = .next (s.frameEnd a d op) := by
  rw [exec_frameRow, State.writeData_of_legal _ (frameBits_ne_nil a d op) h, frameBits_length, State.frameEnd,
    State.frameSamples]

theorem exec_writeData_frameBits {s : State} (a d : Nat) (op : ApbOp) (h : s.tap.resetOrIdle = true) :
    exec (.writeData (frameBits a d op)) s =
      .next (((s.scanned tmsGotoShiftDr (frameBits a d op)).setShiftReg [] []).returns
        (.bits (s.frameSamples a d op))) := by
  rw [exec_writeData_of_legal (frameBits_ne_nil a d op) h, frameBits_length, State.frameSamples]

theorem State.frameEnd_drove {s : State} (a d : Nat) (op : ApbOp) (h : s.tap.resetOrIdle = true) :
    s.Drove (s.frameEnd a d op) .rti false false 56 := by
  have hdrove := State.scanned_dr_drove (frameBits_ne_nil a d op) h
  rw [frameBits_length] at hdrove
  exact (hdrove.setShiftReg [] []).returns _

theorem State.frameEnd_emptyShiftReg (a d : Nat) (op : ApbOp) (s : State) : (s.frameEnd a d op).EmptyShiftReg :=
  ⟨rfl, rfl⟩

/-- The update of a frame row, at its 55th edge. -/
theorem State.frameEnd_updated {s : State} (a d : Nat) (op : ApbOp) (h : s.tap.resetOrIdle = true) :
    ∃ old hist, SameRequests (s.target.awaitedRead (s.edges + 4)) s.target.txns old ∧
      (s.target.ir ≠ Config.opcApbAccess → old = s.target.txns) ∧
      s.target.UpdatedDr (s.frameEnd a d op).target old 50 (frameBits a d op) (s.edges + 55) hist ∧
      s.target.UpdatedStep (s.frameEnd a d op).target 50 (frameBits a d op) hist := by
  obtain ⟨old, -, hold, hother, hupdate, hstep⟩ := State.scanned_dr_updated (frameBits_ne_nil a d op) h
  rw [frameBits_length] at hupdate hstep
  rw [State.frameEnd_target]
  exact ⟨old, _, hold, hother, hupdate, hstep⟩

theorem frameStatus_frameBits (a d : Nat) (op : ApbOp) : frameStatus (valueOfBits (frameBits a d op)) = op.code := by
  rw [valueOfBits_frameBits, frameStatus_encodeFrame]

theorem frameStatus_frameBits_ne_three (a d : Nat) (op : ApbOp) : frameStatus (valueOfBits (frameBits a d op)) ≠ 3 := by
  rw [frameStatus_frameBits]
  cases op <;> decide

/-- A frame keeps the IR when it is one of the three opcodes: the operation is not the reserved one (I3). -/
theorem State.frameEnd_ir {s : State} (a d : Nat) (op : ApbOp) (h : s.tap.resetOrIdle = true)
    (hir : s.target.ir ∈ [Config.opcIdcode, Config.opcApbControl, Config.opcApbAccess]) :
    (s.frameEnd a d op).target.ir = s.target.ir := by
  obtain ⟨old, hist, -, -, -, hstep⟩ := State.frameEnd_updated a d op h
  simp only [List.mem_cons, List.not_mem_nil, or_false] at hir
  exact hstep.keepsIr <| hir.imp_right <| Or.imp_right fun hir => ⟨hir, rfl, frameStatus_frameBits_ne_three a d op⟩

/-- With another register selected a frame is no scan of the APB data register. -/
theorem State.frameEnd_other {s : State} (a d : Nat) (op : ApbOp) (h : s.tap.resetOrIdle = true)
    (hir : s.target.ir ≠ Config.opcApbAccess) :
    (s.frameEnd a d op).target.scans = s.target.scans ∧ (s.frameEnd a d op).target.txns = s.target.txns := by
  obtain ⟨old, hist, -, hother, hupdate, -⟩ := State.frameEnd_updated a d op h
  obtain rfl := hother hir
  by_cases hid : s.target.ir = Config.opcIdcode
  · obtain ⟨-, hscans, htxns, -⟩ := hupdate.idcode hid
    exact ⟨hscans, htxns⟩
  · obtain ⟨-, hscans, htxns, -⟩ := hupdate.unknown ⟨hid, fun _ => by decide, fun ha => absurd ha hir⟩
    exact ⟨hscans, htxns⟩

/-- With the APB data register selected a frame is one scan, which leaves the control register, the boot step and the
records of unknown effect alone; a READ is awaited after it exactly when it is one and the boot order was followed. -/
theorem State.frameEnd_access {s : State} (a d : Nat) (op : ApbOp) (h : s.tap.resetOrIdle = true)
    (hir : s.target.ir = Config.opcApbAccess) :
    (s.frameEnd a d op).target.control = s.target.control ∧
      (s.frameEnd a d op).target.scans = s.target.scans + 1 ∧ (s.frameEnd a d op).target.boot = s.target.boot ∧
      (s.frameEnd a d op).target.stray = s.target.stray ∧
      (s.frameEnd a d op).target.unknownAt = s.target.unknownAt ∧
      ((s.frameEnd a d op).target.awaited = true ↔ op = .read ∧ s.target.boot = .ready) := by
  obtain ⟨old, hist, -, -, hupdate, hstep⟩ := State.frameEnd_updated a d op h
  have h3 := frameStatus_frameBits_ne_three a d op
  obtain ⟨hcontrol, hscans, hstray⟩ := hupdate.frame hir rfl h3
  obtain ⟨hboot, hawaited⟩ := hstep.frame hir rfl h3
  have hread : op.code = 1 ↔ op = .read := by cases op <;> decide
  rw [frameStatus_frameBits, hread] at hawaited
  exact ⟨hcontrol, hscans, hboot, hstray, hupdate.unknownAt, hawaited⟩

/-- A READ or WRITE frame requests one transaction, with the operands masked to their fields. -/
theorem State.frameEnd_request {s : State} {op : ApbOp} {access : Access} (a d : Nat) (h : s.tap.resetOrIdle = true)
    (hir : s.target.ir = Config.opcApbAccess) (hop : (access, op.code) ∈ [(Access.read, 1), (.write, 2)]) :
    ∃ (old : List Txn) (x : Txn), (s.frameEnd a d op).target.txns = old ++ [x] ∧
      SameRequests (s.target.awaitedRead (s.edges + 4)) s.target.txns old ∧ x.scan = s.target.scans + 1 ∧
      x.access = access ∧ x.address = BitVec.ofNat 16 a ∧ x.data = BitVec.ofNat 32 d ∧
      x.RequestedAt (s.edges + 55) old s.target := by
  obtain ⟨old, hist, hold, -, hupdate, -⟩ := State.frameEnd_updated a d op h
  obtain ⟨x, htxns, hscan, haccess, haddress, hdata, hdraws⟩ :=
    hupdate.request hir rfl access op.code hop (frameStatus_frameBits a d op)
  rw [valueOfBits_frameBits, frameAddress_encodeFrame] at haddress
  rw [valueOfBits_frameBits, frameData_encodeFrame] at hdata
  refine ⟨old, x, htxns, hold, hscan, haccess, haddress.trans ?_, hdata.trans ?_, hdraws⟩ <;>
    exact BitVec.eq_of_toNat_eq (by simp)

/-- Settles O42: operation code 0 requests nothing. -/
theorem apbNoneCompletes : Obligations.ApbNoneCompletes := by
  intro s a d h
  refine ⟨_, _, exec_frameRow_of_legal a d .none h, State.frameEnd_drove a d .none h,
    State.frameEnd_emptyShiftReg a d .none s, State.frameSamples_length a d .none s, rfl, rfl,
    State.frameEnd_ir a d .none h, fun hir => ?_, State.frameEnd_other a d .none h⟩
  obtain ⟨hcontrol, hscans, hboot, hstray, hunknownAt, hawaited⟩ := State.frameEnd_access a d .none h hir
  obtain ⟨old, hist, hold, -, hupdate, -⟩ := State.frameEnd_updated a d .none h
  have htxns := hupdate.none hir rfl (frameStatus_frameBits a d .none)
  have hidle : (s.frameEnd a d .none).target.awaited = false :=
    Bool.eq_false_iff.mpr fun hw => nomatch (hawaited.mp hw).1
  exact ⟨hscans, hcontrol, hboot, hstray, hunknownAt, hidle, by rw [htxns]; exact hold⟩

/-- Settles O43: a frame of operation code 1. -/
theorem apbReadCompletes : Obligations.ApbReadCompletes := by
  intro s a d h
  refine ⟨_, _, exec_frameRow_of_legal a d .read h, State.frameEnd_drove a d .read h,
    State.frameEnd_emptyShiftReg a d .read s, State.frameSamples_length a d .read s, rfl, rfl,
    State.frameEnd_ir a d .read h, fun hir => ?_, State.frameEnd_other a d .read h⟩
  obtain ⟨hcontrol, hscans, hboot, hstray, hunknownAt, hawaited⟩ := State.frameEnd_access a d .read h hir
  obtain ⟨old, x, htxns, hold, hscan, haccess, haddress, -, hdraws⟩ :=
    State.frameEnd_request (op := .read) (access := .read) a d h hir (by decide)
  exact ⟨hcontrol, hscans, hboot, hstray, hunknownAt, hawaited.trans (and_iff_right rfl), old, x, htxns, hold, hscan,
    haccess, haddress, hdraws⟩

theorem ofNat_and_mask (w v : Nat) : BitVec.ofNat w (v &&& (2 ^ w - 1)) = BitVec.ofNat w v := by
  rw [Nat.and_two_pow_sub_one_eq_mod]
  exact BitVec.eq_of_toNat_eq (by simp)

/-- Settles O44: a frame of operation code 2, whose samples are dropped. -/
theorem apbWriteCompletes : Obligations.ApbWriteCompletes := by
  intro s a d h
  refine ⟨_, exec_frameRow_of_legal a d .write h, State.frameEnd_drove a d .write h,
    State.frameEnd_emptyShiftReg a d .write s, rfl, State.frameEnd_ir a d .write h, fun hir => ?_,
    State.frameEnd_other a d .write h⟩
  obtain ⟨hcontrol, hscans, hboot, hstray, hunknownAt, hawaited⟩ := State.frameEnd_access a d .write h hir
  obtain ⟨old, x, htxns, hold, hscan, haccess, haddress, hdata, hdraws⟩ :=
    State.frameEnd_request (op := .write) (access := .write) a d h hir (by decide)
  have hidle : (s.frameEnd a d .write).target.awaited = false :=
    Bool.eq_false_iff.mpr fun hw => nomatch (hawaited.mp hw).1
  exact ⟨hcontrol, hscans, hboot, hstray, hunknownAt, hidle, old, x, htxns, hold, hscan, haccess,
    haddress.trans (ofNat_and_mask 16 a).symm, hdata.trans (ofNat_and_mask 32 d).symm, hdraws⟩

theorem frameRow_cases {a d : Nat} {op : ApbOp} {i : Instr}
    (h : (op, i) ∈ [(.none, .apbNone a d), (.read, .apbRead a d), (.write, .apbWrite a d)]) : i = frameRow a d op := by
  simp only [List.mem_cons, List.not_mem_nil, or_false, Prod.mk.injEq] at h
  rcases h with ⟨rfl, rfl⟩ | ⟨rfl, rfl⟩ | ⟨rfl, rfl⟩ <;> rfl

theorem frameResult_eq (samples : BitSeq) (op : ApbOp) :
    frameResult samples op = if op = .write then .nothing
      else .reply (frameData (valueOfBits samples)) (frameStatus (valueOfBits samples)) := by
  cases op <;> rfl

/-- Settles O51: the frame row and `write_data` differ in what they make of the samples. -/
theorem frameRowsAreWriteData : Obligations.FrameRowsAreWriteData := by
  intro s a d op i hi
  rw [frameRow_cases hi]
  refine ⟨fun h => ?_, fun h => ?_⟩
  · refine ⟨_, _, exec_writeData_frameBits a d op h, State.returns_result _ _, ?_⟩
    rw [exec_frameRow_of_legal a d op h, ← frameResult_eq, State.frameEnd]
    exact congrArg Host.Outcome.next (State.returns_returns _ _ _).symm
  · rw [exec_frameRow, State.writeData_of_illegal _ (frameBits_ne_nil a d op) h]
    exact congrArg Host.Outcome.next (State.writeData_of_illegal _ (frameBits_ne_nil a d op) h).symm

end Sys2Proof.Machine

namespace Sys2Proof.Machine

/-! Family 20_memory: the pairing of replies with requests (R70 to R73). -/

theorem toNat_append_eq_add {n m : Nat} (x : BitVec n) (y : BitVec m) :
    (x ++ y).toNat = x.toNat * 2 ^ m + y.toNat := by
  rw [BitVec.toNat_append, ← Nat.shiftLeft_add_eq_or_of_lt y.isLt, Nat.shiftLeft_eq]

/-- A reply with `x` to report carries its status, and its value if it is a READ. -/
theorem reportedBy_replyFrame (free : BitVec 50) (x : Txn) :
    x.ReportedBy (bitsOfNat (replyFrame free (some x)).toNat 50) := by
  have hvalue : valueOfBits (bitsOfNat (replyFrame free (some x)).toNat 50) = (replyFrame free (some x)).toNat := by
    rw [valueOfBits_bitsOfNat, Nat.mod_eq_of_lt (BitVec.isLt _)]
  have hstatus := x.status.isLt
  constructor
  · rw [hvalue, frameStatus_eq, replyFrame, toNat_append_eq_add]
    omega
  · intro hread
    have hdata := x.value.isLt
    rw [hvalue, frameData_eq, replyFrame, hread]
    dsimp only
    rw [toNat_append_eq_add, toNat_append_eq_add]
    omega

theorem Txn.ReportedBy.of_performed {x : Txn} {r : BitSeq} {b : Bool} (h : { x with performed := b }.ReportedBy r) :
    x.ReportedBy r :=
  ⟨h.status, h.data⟩

theorem Target.pairing_of_awaitedRead {t : Target} {e : Nat} {x : Txn} (hboot : t.boot = .ready)
    (h : t.awaitedRead e = some x) : t.pairing e = some { x with performed := true } := by
  simp only [Target.pairing, hboot, h]

/-- A shift as long as the register returns it whole. -/
theorem State.samples_whole {s : State} {bits : BitSeq} (h : s.tap = .known .shiftDR) (h0 : s.target.shifted = 0)
    (hb : bits.length = s.target.shiftReg.length) :
    State.samples (shiftEdges bits) (s.beginShift bits.length) = s.target.shiftReg := by
  have hbegin : s.beginShift bits.length = s := by
    rw [State.beginShift, Target.beginShift_of_length hb]
  rw [hbegin]
  refine List.ext_getElem? fun i => ?_
  rcases lt_or_ge i s.target.shiftReg.length with hi | hi
  · exact State.samples_captured h h0 (by omega) hi
  · rw [List.getElem?_eq_none hi, List.getElem?_eq_none]
    rw [State.samples_length, shiftEdges_length, hb]
    exact hi

/-- What a 50-bit scan of the APB data register returns: the reply that the target pairs at the fourth edge. -/
theorem exec_writeData_reply {s t : State} {bits : BitSeq} (h : s.tap.resetOrIdle = true)
    (hir : s.target.ir = Config.opcApbAccess) (hlen : bits.length = 50) (ht : exec (.writeData bits) s = .next t) :
    ∃ (u : Target) (free : BitVec 50), s.target.SameRegisters u ∧
      t.result = .bits (bitsOfNat (replyFrame free (u.pairing (s.edges + 4))).toNat 50) := by
  have hb : bits ≠ [] := by rintro rfl; cases hlen
  cases (exec_writeData_of_legal hb h).symm.trans ht
  obtain ⟨u, hsame, hu⟩ := State.driveEdges_gotoShiftDr_target false h
  obtain ⟨-, -, -, -, -, -, hshifted, -⟩ := u.captureDr_frame (s.edges + 4)
  have hreg := Target.captureDr_shiftReg_access (hsame.ir.trans hir) (s.edges + 4)
  rw [← hu] at hshifted hreg
  refine ⟨{ u with shifted := 0, tdo := Config.tdo u.history (s.edges + 4) }, Config.freeReply u.history,
    hsame.trans ⟨rfl, rfl, rfl, rfl, rfl, rfl, rfl, rfl, rfl, rfl⟩, congrArg Result.bits ?_⟩
  refine (State.samples_whole (State.driveEdges_gotoShiftDr_tap false h) hshifted ?_).trans hreg
  rw [hreg, bitsOfNat_length, hlen]

/-- The READ waited for is the one reported (R73). -/
theorem awaitedRead_reportedBy {t : Target} {e : Nat} {x : Txn} (free : BitVec 50) (hboot : t.boot = .ready)
    (h : t.awaitedRead e = some x) : x.ReportedBy (bitsOfNat (replyFrame free (t.pairing e)).toNat 50) := by
  rw [Target.pairing_of_awaitedRead hboot h]
  exact (reportedBy_replyFrame free _).of_performed

/-- Settles O46: what the pairing can be, with every transaction numbered by an earlier scan. -/
theorem replyPairing : Obligations.ReplyPairing := by
  intro s t bits hnum h hir hboot hlen ht
  obtain ⟨u, free, hsame, hresult⟩ := exec_writeData_reply h hir hlen ht
  have hboot' : u.boot = .ready := hsame.boot.trans hboot
  have hawaited := hsame.awaitedRead (s.edges + 4)
  refine ⟨_, hresult, bitsOfNat_length _ _, fun x hx => awaitedRead_reportedBy free hboot' (hawaited.trans hx), ?_⟩
  cases hp : u.pairing (s.edges + 4) with
  | some x =>
    obtain ⟨-, ⟨y, hy, rfl⟩ | ⟨-, hmem, hdone⟩⟩ := Target.pairing_eq_some hp
    · have hy' := hawaited.symm.trans hy
      have hmem := List.mem_of_getLast? (Target.awaitedRead_eq_some hy').2.1
      exact .inl ⟨y, hmem, Nat.lt_succ_of_le (hnum.scan y hmem), .inr hy', (reportedBy_replyFrame free _).of_performed⟩
    · rw [hsame.txns] at hmem
      exact .inl ⟨x, hmem, Nat.lt_succ_of_le (hnum.scan x hmem), .inl hdone, reportedBy_replyFrame free x⟩
  | none =>
    obtain ⟨-, hstray | hnone⟩ := Target.pairing_eq_none hp hboot'
    · rw [Target.strayMayBeLatest_iff, hsame.stray, hsame.txns] at hstray
      exact .inr (.inr hstray)
    · rw [hsame.txns] at hnone
      exact .inr (.inl hnone)

/-- A READ that is awaited, the last transaction, and has been waited for long enough. -/
theorem Target.awaitedRead_of_last {t : Target} {old : List Txn} {x : Txn} {e : Nat} (hawaited : t.awaited = true)
    (htxns : t.txns = old ++ [x]) (he : x.issuedAt + 5 + Config.apbLatency ≤ e) : t.awaitedRead e = some x := by
  rw [Target.awaitedRead, hawaited, htxns, List.getLast?_concat]
  exact if_pos he

/-- Settles O47: after the READ frame its transaction is awaited, held edges in idle keep it so, and the capture comes late
enough. -/
theorem synchronousRead : Obligations.SynchronousRead := by
  intro s a b c address data n bits h hir hboot hn hlen ha hb hc
  obtain ⟨a', -, ha', hdrove, -, -, -, -, hirA, haccess, -⟩ := apbReadCompletes s address data h
  cases ha'.symm.trans ha
  obtain ⟨-, -, hbootA, -, -, hawaited, old, x, htxns, -, hscan, hread, haddress, hdraws⟩ := haccess hir
  obtain ⟨b', hb', htap, -, -, hedges, -, -, -, -, -, -, hsame, -⟩ :=
    waitCompletes a n (.inr (.inr ⟨hdrove.tap, hdrove.tms⟩))
  cases hb'.symm.trans hb
  replace hsame := hsame (.inr hdrove.tap)
  have hlegal : b.tap.resetOrIdle = true := (Tap.resetOrIdle_iff _).mpr (.inr (htap.trans hdrove.tap))
  have hirB : b.target.ir = Config.opcApbAccess := (hsame.ir.trans (hirA (by rw [hir]; simp))).trans hir
  obtain ⟨u, free, hsameU, hresult⟩ := exec_writeData_reply hlegal hirB hlen hc
  replace hsame := hsame.trans hsameU
  have hlate : u.awaitedRead (b.edges + 4) = some x := by
    refine Target.awaitedRead_of_last (hsame.awaited.trans (hawaited.mpr hboot)) (hsame.txns.trans htxns) ?_
    rw [hedges, hdrove.edges, hdraws.issuedAt]
    omega
  obtain ⟨hstatus, hvalue⟩ := awaitedRead_reportedBy free (hsame.boot.trans (hbootA.trans hboot)) hlate
  exact ⟨x, _, by rw [htxns, List.getLast?_concat], hread, hscan, haddress, hresult, bitsOfNat_length _ _,
    hvalue hread, hstatus⟩

end Sys2Proof.Machine
